-- ==== Sys2Proof/Word.lean ====
section
/-! DEFINITION. The word types of the PPM frame decoder block. -/

namespace Sys2Proof

/-- An operation word `OW[23:0]` (30_encoding.md R49). -/
abbrev OpWord := BitVec 24

/-- A 16-bit unsigned value: a buffer entry, the tick counter, host data (R6: `BUF_W`, `CNT_W`, `DATA_W`). -/
abbrev Half := BitVec 16

/-- A host word address (20_memory.md R32: `ADDR_W` = 4). -/
abbrev Addr := BitVec 4

/-- One byte of a byte-addressed bus outside the block (20_memory.md R38). -/
abbrev Byte := BitVec 8

end Sys2Proof
end

