-- ==== Sys2Proof/Config.lean ====
section
/-! DEFINITION. The parameters of the block (00_scope.md R6) and the values the spec leaves open
(92_eei_decisions.md, "Open parameters"). -/

namespace Sys2Proof.Config

/-- `NUM_CH` (R6). -/
def numCh : Nat := 8

/-- `BUF_ENTRIES` = `NUM_CH` + 1 (R6). -/
def bufEntries : Nat := 9

/-- `SYNC_THRESHOLD_US` (R6); the comparison is strict (R71). -/
def syncThresholdUs : Nat := 2500

/-- `TICKS_PER_US` (R6, decision D1; log 4). -/
def ticksPerUs : Nat := 2

/-- `CNT_W` (R6, decision D3; log 4). -/
def cntW : Nat := 16

/-- `BUF_W` (R6, decision D4; log 4). -/
def bufW : Nat := 16

/-- `SYNC_STAGES` (R6, decision D8; log 4). -/
def syncStages : Nat := 2

/-- `F_TICK` in Hz: `TICKS_PER_US` MHz (R6, R63). -/
def fTickHz : Nat := ticksPerUs * 1000000

/-- `F_CLK` in Hz, an OPEN platform parameter (R6, D7; log 5). -/
opaque fClkHz : Nat

/-- `BASE_ADDR`, an OPEN platform parameter: where the block's 16 locations begin in the host's address space
(20_memory.md R41, D9; log 5). -/
opaque baseAddr : Nat

/-- The two orders in which a byte-addressed bus can hold a 16-bit register (20_memory.md R38). -/
inductive ByteOrder where
  | lowFirst
  | highFirst
deriving DecidableEq, Repr, Inhabited

/-- `BUS_BYTE_ORDER`, an OPEN platform parameter (R38, D14; log 5). -/
opaque busByteOrder : ByteOrder

/-- `BAUD`, an OPEN host parameter (D24; log 5). -/
opaque baud : Nat

/-- `CHARSET`, an OPEN host parameter: the bytes that stand for one character of the report line (D24; log 5). -/
opaque charset : Char → List Byte

/-- How far the Reporter's fixed pause exceeds 2000 ms: a free value (42_host_interface.md R97, U6; log 6). -/
opaque reporterPauseExtraMs : Nat

/-- The Reporter's pause in ms, "a fixed wall-clock interval of at least 2000 ms" (R97). -/
def reporterPauseMs : Nat := 2000 + reporterPauseExtraMs

end Sys2Proof.Config
end

