-- ==== Sys2Proof/Syntax.lean ====
section
/-! DEFINITION. The operations of the block: one constructor per row of spec/opcode_table.json. -/

namespace Sys2Proof

/-- One operation of one agent (30_encoding.md R49 to R55). Operands are those of R53: `k` an entry, `e` an elapsed
value in µs, `a` a register address, `wdata` write data. -/
inductive Instr where
  /-- TICK (R62): one tick of the Edge Timer. -/
  | tick
  /-- EDGE (R77): a rising edge on `ppm_in`. -/
  | edge
  /-- EDGE_E (R78): a rising edge with a synthetic elapsed value. -/
  | edgeE (e : Half)
  /-- RESET (R111). -/
  | reset
  /-- RD_CH (R84): read channel entry `k`. -/
  | rdCh (k : Fin 8)
  /-- RD_GAP (R85). -/
  | rdGap
  /-- RD_STATUS (R86). -/
  | rdStatus
  /-- RD_CTRL (R87). -/
  | rdCtrl
  /-- RD_RSVD_B (R88): read of address 0xB. -/
  | rdRsvdB
  /-- RD_RSVD_CF (R88): read of an address 0xC to 0xF. -/
  | rdRsvdCf (a : Addr)
  /-- WR_RO_CH (R89): write to an address 0x0 to 0x7. -/
  | wrRoCh (a : Addr) (wdata : Half)
  /-- WR_RO_GS (R89): write to GAP or STATUS, address 0x8 or 0x9. -/
  | wrRoGs (a : Addr) (wdata : Half)
  /-- RELEASE (R90): write to CTRL with bit 0 set. -/
  | release (wdata : Half)
  /-- WR_CTRL_NOP (R91): write to CTRL with bit 0 clear. -/
  | wrCtrlNop (wdata : Half)
  /-- WR_RSVD_B (R92): write to address 0xB. -/
  | wrRsvdB (wdata : Half)
  /-- WR_RSVD_CF (R92): write to an address 0xC to 0xF. -/
  | wrRsvdCf (a : Addr) (wdata : Half)
deriving DecidableEq, Repr

end Sys2Proof
end

