-- ==== Sys2Proof/WellFormed.lean ====
section
/-! DEFINITION. Which operations an operation word can spell: the ranges the rules of spec/ give the operands. -/

namespace Sys2Proof

/-- The operand ranges of R88 (RD_RSVD_CF), R89 (WR_RO_CH, WR_RO_GS), R90 (RELEASE), R91 (WR_CTRL_NOP) and R92
(WR_RSVD_CF). The other operations take every value of their operands. -/
def Instr.wf : Instr → Bool
  | .tick => true
  | .edge => true
  | .edgeE _ => true
  | .reset => true
  | .rdCh _ => true
  | .rdGap => true
  | .rdStatus => true
  | .rdCtrl => true
  | .rdRsvdB => true
  | .rdRsvdCf a => decide (0xC ≤ a.toNat)
  | .wrRoCh a _ => decide (a.toNat ≤ 0x7)
  | .wrRoGs a _ => decide (a.toNat = 0x8 ∨ a.toNat = 0x9)
  | .release wdata => wdata.getLsbD 0
  | .wrCtrlNop wdata => !wdata.getLsbD 0
  | .wrRsvdB _ => true
  | .wrRsvdCf a _ => decide (0xC ≤ a.toNat)

end Sys2Proof
end

