-- ==== Sys2Proof/Decode.lean ====
section
/-! DEFINITION. Operation words: the decode function of 30_encoding.md R55, the encoder, and the map as match and
mask pairs. -/

namespace Sys2Proof

/-- Why a word spells no operation: one constructor per bullet of 30_encoding.md R56. -/
inductive RefusedWord where
  /-- "every word with CLS = 0b11" -/
  | reservedClass
  /-- "every EVT word with `OW[19:16] != 0`" -/
  | evtMbz
  /-- "every TICK, EDGE or RESET word with `OW[15:0] != 0`" -/
  | evtOperand
  /-- "every RD word with `OW[21:20] != 0` or `OW[15:0] != 0`" -/
  | rdMbz
  /-- "every WR word with `OW[21:20] != 0`" -/
  | wrMbz
deriving DecidableEq, Repr

/-- What a word decodes to: "an operation, or `Refused`" (R55). -/
inductive Decoded where
  | op (i : Instr)
  | refused (why : RefusedWord)
deriving DecidableEq, Repr

/-! ### Fields (R49 to R52) -/

/-- CLS = `OW[23:22]`. -/
def wordCls (w : OpWord) : BitVec 2 := w.extractLsb' 22 2

/-- EV, or the must-be-zero bits of RD and WR: `OW[21:20]`. -/
def wordSub (w : OpWord) : BitVec 2 := w.extractLsb' 20 2

/-- ADDR, or the must-be-zero bits of EVT: `OW[19:16]`. -/
def wordAddr (w : OpWord) : Addr := w.extractLsb' 16 4

/-- E, WDATA, or the must-be-zero bits of RD: `OW[15:0]`. -/
def wordData (w : OpWord) : Half := w.extractLsb' 0 16

/-- The channel entry `k = a[2:0] = OW[18:16]` of RD_CH (R53). -/
def channelOfAddr (a : Addr) : Fin 8 := (a.extractLsb' 0 3).toFin

/-! ### Decoding (R55) -/

/-- Format EVT (R50). -/
def decodeEvt (sub : BitVec 2) (a : Addr) (d : Half) : Decoded :=
  if a ≠ 0#4 then .refused .evtMbz
  else if sub = 0b00#2 then (if d = 0#16 then .op .tick else .refused .evtOperand)
  else if sub = 0b01#2 then (if d = 0#16 then .op .edge else .refused .evtOperand)
  else if sub = 0b10#2 then .op (.edgeE d)
  else (if d = 0#16 then .op .reset else .refused .evtOperand)

/-- Format RD (R51). -/
def decodeRd (sub : BitVec 2) (a : Addr) (d : Half) : Decoded :=
  if sub ≠ 0#2 ∨ d ≠ 0#16 then .refused .rdMbz
  else if a.toNat ≤ 0x7 then .op (.rdCh (channelOfAddr a))
  else if a = 0x8#4 then .op .rdGap
  else if a = 0x9#4 then .op .rdStatus
  else if a = 0xA#4 then .op .rdCtrl
  else if a = 0xB#4 then .op .rdRsvdB
  else .op (.rdRsvdCf a)

/-- Format WR (R52). -/
def decodeWr (sub : BitVec 2) (a : Addr) (d : Half) : Decoded :=
  if sub ≠ 0#2 then .refused .wrMbz
  else if a.toNat ≤ 0x7 then .op (.wrRoCh a d)
  else if a = 0x8#4 ∨ a = 0x9#4 then .op (.wrRoGs a d)
  else if a = 0xA#4 then (if d.getLsbD 0 then .op (.release d) else .op (.wrCtrlNop d))
  else if a = 0xB#4 then .op (.wrRsvdB d)
  else .op (.wrRsvdCf a d)

/-- `decode(OW)` of R55, total on all 2^24 words. -/
def decode (w : OpWord) : Decoded :=
  if wordCls w = 0b00#2 then decodeEvt (wordSub w) (wordAddr w) (wordData w)
  else if wordCls w = 0b01#2 then decodeRd (wordSub w) (wordAddr w) (wordData w)
  else if wordCls w = 0b10#2 then decodeWr (wordSub w) (wordAddr w) (wordData w)
  else .refused .reservedClass

/-- The operation the decoder reads from a word numbered as spec/opcode_table.json numbers it. The table's number IS
the 24-bit word; bits above `nbits` are 0 (log 16). -/
def decodeTableWord (nbits w : Nat) : Option Instr :=
  if w < 2 ^ nbits ∧ w < 2 ^ 24 then
    match decode (BitVec.ofNat 24 w) with
    | .op i => some i
    | .refused _ => none
  else none

/-! ### Encoding (R50 to R52, R55) -/

/-- A word of the EVT format. -/
def evtWord (ev : BitVec 2) (e : Half) : OpWord := 0b00#2 ++ ev ++ 0#4 ++ e

/-- A word of the RD format: `RD @a` (R59, R61). -/
def rdWord (a : Addr) : OpWord := 0b01#2 ++ 0#2 ++ a ++ 0#16

/-- A word of the WR format: `WR @a, #wdata` (R59, R61). -/
def wrWord (a : Addr) (wdata : Half) : OpWord := 0b10#2 ++ 0#2 ++ a ++ wdata

/-- The word of an operation. -/
def encode : Instr → OpWord
  | .tick => evtWord 0b00#2 0#16
  | .edge => evtWord 0b01#2 0#16
  | .edgeE e => evtWord 0b10#2 e
  | .reset => evtWord 0b11#2 0#16
  | .rdCh k => rdWord (BitVec.ofNat 4 k.val)
  | .rdGap => rdWord 0x8#4
  | .rdStatus => rdWord 0x9#4
  | .rdCtrl => rdWord 0xA#4
  | .rdRsvdB => rdWord 0xB#4
  | .rdRsvdCf a => rdWord a
  | .wrRoCh a wdata => wrWord a wdata
  | .wrRoGs a wdata => wrWord a wdata
  | .release wdata => wrWord 0xA#4 wdata
  | .wrCtrlNop wdata => wrWord 0xA#4 wdata
  | .wrRsvdB wdata => wrWord 0xB#4 wdata
  | .wrRsvdCf a wdata => wrWord a wdata

/-! ### The map as match and mask pairs (R55, second table) -/

/-- One row of the opcode map. -/
structure OpcodeRow where
  mnemonic : String
  pattern : OpWord
  mask : OpWord
deriving DecidableEq, Repr

/-- "A word `w` is the row's operation when `w AND mask = match`" (R55). -/
def OpcodeRow.accepts (r : OpcodeRow) (w : OpWord) : Prop := w &&& r.mask = r.pattern

/-- The rows of R55, in its order: the EVT format. -/
def opcodeRowsEvt : List OpcodeRow :=
  [⟨"TICK", 0x000000#24, 0xFFFFFF#24⟩,
   ⟨"EDGE", 0x100000#24, 0xFFFFFF#24⟩,
   ⟨"EDGE_E", 0x200000#24, 0xFF0000#24⟩,
   ⟨"RESET", 0x300000#24, 0xFFFFFF#24⟩]

/-- The rows of R55: the RD format. -/
def opcodeRowsRd : List OpcodeRow :=
  [⟨"RD_CH", 0x400000#24, 0xF8FFFF#24⟩,
   ⟨"RD_GAP", 0x480000#24, 0xFFFFFF#24⟩,
   ⟨"RD_STATUS", 0x490000#24, 0xFFFFFF#24⟩,
   ⟨"RD_CTRL", 0x4A0000#24, 0xFFFFFF#24⟩,
   ⟨"RD_RSVD_B", 0x4B0000#24, 0xFFFFFF#24⟩,
   ⟨"RD_RSVD_CF", 0x4C0000#24, 0xFCFFFF#24⟩]

/-- The rows of R55: the WR format. -/
def opcodeRowsWr : List OpcodeRow :=
  [⟨"WR_RO_CH", 0x800000#24, 0xF80000#24⟩,
   ⟨"WR_RO_GS", 0x880000#24, 0xFE0000#24⟩,
   ⟨"RELEASE", 0x8A0001#24, 0xFF0001#24⟩,
   ⟨"WR_CTRL_NOP", 0x8A0000#24, 0xFF0001#24⟩,
   ⟨"WR_RSVD_B", 0x8B0000#24, 0xFF0000#24⟩,
   ⟨"WR_RSVD_CF", 0x8C0000#24, 0xFC0000#24⟩]

/-- The sixteen rows. -/
def opcodeTable : List OpcodeRow := opcodeRowsEvt ++ opcodeRowsRd ++ opcodeRowsWr

/-- The mnemonic of an operation's row. -/
def mnemonicOf : Instr → String
  | .tick => "TICK"
  | .edge => "EDGE"
  | .edgeE _ => "EDGE_E"
  | .reset => "RESET"
  | .rdCh _ => "RD_CH"
  | .rdGap => "RD_GAP"
  | .rdStatus => "RD_STATUS"
  | .rdCtrl => "RD_CTRL"
  | .rdRsvdB => "RD_RSVD_B"
  | .rdRsvdCf _ => "RD_RSVD_CF"
  | .wrRoCh _ _ => "WR_RO_CH"
  | .wrRoGs _ _ => "WR_RO_GS"
  | .release _ => "RELEASE"
  | .wrCtrlNop _ => "WR_CTRL_NOP"
  | .wrRsvdB _ => "WR_RSVD_B"
  | .wrRsvdCf _ _ => "WR_RSVD_CF"

end Sys2Proof
end

