-- ==== Sys2Proof/Machine/State.lean ====
section
/-! DEFINITION. The state of the block (10_state.md R29), of its ports, and of the agents around it, as plain data. -/

namespace Sys2Proof.Machine

/-- The Current Channel Index: exactly ten values (10_state.md R17). `unsync` is the source's -1. -/
inductive ChanIndex where
  | unsync
  | inFrame (i : Fin 9)
deriving DecidableEq, Repr

/-- The input ports of one `clk` cycle (20_memory.md R31). `ppmIn` is the level the first synchroniser stage samples at
the end of the cycle (log 12); a cycle may or may not carry a tick (log 13). -/
structure PortIn where
  rst : Bool
  tickEn : Bool
  ppmIn : Bool
  req : Bool
  we : Bool
  addr : Addr
  wdata : Half
deriving DecidableEq, Repr

/-- What the outside world does next (logs 1, 9). -/
inductive Stimulus where
  /-- An operation word: one atomic operation of one agent, the event level of 00_scope.md R9. -/
  | word (w : OpWord)
  /-- One clock cycle with these port values: the cycle level of R9. -/
  | ports (p : PortIn)
  /-- The Reporter makes the next move of its protocol (42_host_interface.md R94 to R97). -/
  | reporter
  /-- `ms` milliseconds of the Reporter's wall clock pass (R97; log 15). -/
  | elapse (ms : Nat)
deriving DecidableEq, Repr

/-- Where the Reporter stands in its protocol (42_host_interface.md R94 to R97). -/
inductive ReporterPhase where
  /-- Repeating `RD STATUS` (R94). -/
  | polling
  /-- Reading CH1, ..., CH8, GAP (R95); `got` holds the values read so far, in order. -/
  | draining (got : List Half)
  /-- All nine values are read; RELEASE is next (R96). -/
  | releasing
  /-- The pause after RELEASE (R97), with this many milliseconds left. -/
  | pausing (leftMs : Nat)
deriving DecidableEq, Repr

/-- The Reporter: the host agent of 42_host_interface.md Part 2. `reports` holds the nine values of each line it
emitted, oldest first (R95). -/
structure Reporter where
  phase : ReporterPhase
  reports : List (List Half)
deriving DecidableEq, Repr

/-- The state. -/
structure State where
  /-- The Channel Buffer, entries 0 to 8 (R13). -/
  buf : Vector Half 9
  /-- The Ready Flag (R16). -/
  ready : Bool
  /-- The Current Channel Index (R17). -/
  idx : ChanIndex
  /-- The Edge Timer counter, in ticks (R21). -/
  cnt : Half
  /-- First synchroniser stage (R22). -/
  s1 : Bool
  /-- Second synchroniser stage (R22). -/
  s2 : Bool
  /-- The previous synchronised sample (R22). -/
  prev : Bool
  /-- The output port `rdata` as the last step left it (R31; log 3). -/
  rdata : Half
  /-- The stimuli still to come, the next one first (log 1). -/
  inputs : List Stimulus
  /-- The Reporter (log 7). -/
  reporter : Reporter
deriving DecidableEq, Repr

/-- Faults. There are none: "the block has no fault outcome" (60_exceptions.md R99), so nothing raises one, and no
difference from the hardware arises. -/
inductive Fault where
deriving DecidableEq, Repr

/-- Refusals. -/
inductive Refusal where
  /-- An operation that this model gives no meaning. Raised by an arm of `exec`, safe; no arm raises it. -/
  | notModelled (mnemonic : String)
  /-- A word that spells no operation (30_encoding.md R56). Raised by the step that is given the word, safe: "A model
  must refuse it, not give it a meaning." -/
  | refusedWord (why : RefusedWord)
deriving DecidableEq, Repr

/-- The block right after reset (10_state.md R24), nothing given to it yet, the Reporter about to poll (R114 step 4;
logs 1, 7, 10). -/
def State.reset : State where
  buf := Vector.replicate 9 0#16
  ready := false
  idx := .unsync
  cnt := 0#16
  s1 := true
  s2 := true
  prev := true
  rdata := 0#16
  inputs := []
  reporter := ⟨.polling, []⟩

end Sys2Proof.Machine
end

