-- ==== Sys2Proof/Machine/Operands.lean ====
section
/-! DEFINITION. The operand forms: tick counts as µs, entry and channel numbers, and the register map's names. -/

namespace Sys2Proof.Machine

/-- The conversion of ticks to µs: `zext_16(cnt div TICKS_PER_US)`, floor (40_edge_timer.md R64). -/
def usOfTicks (cnt : Half) : Half := BitVec.ofNat 16 (cnt.toNat / Config.ticksPerUs)

/-- The buffer entry `buf[k]` of channel entry `k` in 0..7 (30_encoding.md R53). -/
def entryOfChannel (k : Fin 8) : Fin 9 := k.castSucc

/-- The buffer entry of the sync gap, `buf[8]` (10_state.md R14). -/
def gapEntry : Fin 9 := 8

/-- The host address of channel entry `k` (20_memory.md R33). -/
def addrOfChannel (k : Fin 8) : Addr := BitVec.ofNat 4 k.val

/-- The registers of the map (20_memory.md R33). -/
inductive Reg where
  /-- CH1 to CH8, addresses 0x0 to 0x7. -/
  | ch (k : Fin 8)
  /-- GAP, address 0x8. -/
  | gap
  /-- STATUS, address 0x9. -/
  | status
  /-- CTRL, address 0xA. -/
  | ctrl
  /-- Addresses 0xB to 0xF. -/
  | reserved
deriving DecidableEq, Repr

/-- The register at an address (R33). -/
def regAt (a : Addr) : Reg :=
  if a.toNat ≤ 0x7 then .ch (channelOfAddr a)
  else if a = 0x8#4 then .gap
  else if a = 0x9#4 then .status
  else if a = 0xA#4 then .ctrl
  else .reserved

end Sys2Proof.Machine
end

