-- ==== Sys2Proof/Machine/Flags.lean ====
section
/-! DEFINITION. The classification of an interval, and the STATUS and CTRL fields. -/

namespace Sys2Proof.Machine

/-- "`e > SYNC_THRESHOLD_US` is a sync gap": unsigned and strict (41_frame_decoder.md R71). -/
def isSyncGap (e : Half) : Bool := decide (Config.syncThresholdUs < e.toNat)

/-- IDX: the index as 8-bit two's complement, UNSYNC as 0xFF (20_memory.md R34). -/
def idxField : ChanIndex → BitVec 8
  | .unsync => 0xFF#8
  | .inFrame i => BitVec.ofNat 8 i.val

/-- READY: one bit (20_memory.md R34). -/
def readyField (ready : Bool) : BitVec 1 := BitVec.ofBool ready

/-- The STATUS word `{IDX[7:0], 0b0000000, READY}` (20_memory.md R34, 42_host_interface.md R86). -/
def statusWord (idx : ChanIndex) (ready : Bool) : Half := idxField idx ++ 0#7 ++ readyField ready

/-- The RELEASE bit of a value written to CTRL (20_memory.md R35). -/
def releaseBit (wdata : Half) : Bool := wdata.getLsbD 0

end Sys2Proof.Machine
end

