-- ==== Sys2Proof/Machine/Ops.lean ====
section
/-! DEFINITION. The named operations over the state: the buffer, the Edge Timer, the Frame Decoder, the register map,
reset and the input sampler. Every meaning and the clock cycle are built from these. The block takes no exceptions
(60_exceptions.md R99); its one interrupt entry is `State.edge`, which saves nothing and returns nowhere (R106, R107). -/

namespace Sys2Proof.Machine

/-! ### The Channel Buffer -/

/-- `buf[k]`. -/
def State.readBuf (s : State) (k : Fin 9) : Half := s.buf[k]

/-- `buf[k] <- v`. -/
def State.writeBuf (s : State) (k : Fin 9) (v : Half) : State := { s with buf := s.buf.set k v }

/-! ### The output ports (20_memory.md R31) -/

/-- A read returns `v`: `rdata <- v`. -/
def State.driveRdata (s : State) (v : Half) : State := { s with rdata := v }

/-- A step begins with no read in it: `rdata` "is 0 in every other cycle" (R31; log 3). -/
def State.undriven (s : State) : State := { s with rdata := 0#16 }

/-- The port `ready_o` "equals `ready` at all times" (60_exceptions.md R105). -/
def State.readyO (s : State) : Bool := s.ready

/-! ### The Edge Timer -/

/-- One tick, modulo 2^16 (40_edge_timer.md R62, R66). -/
def State.tick (s : State) : State := { s with cnt := s.cnt + 1#16 }

/-- `elapsedSinceReset()`: the elapsed µs, and the state with the counter at 0 (R64). -/
def State.elapsedSinceReset (s : State) : Half × State := (usOfTicks s.cnt, { s with cnt := 0#16 })

/-! ### The Frame Decoder -/

/-- `idx <- UNSYNC -> 0`: case SYNC-ACQUIRE (41_frame_decoder.md R72). -/
def State.syncAcquire (s : State) : State := { s with idx := .inFrame 0 }

/-- Case FRAME-END, three writes together (R73). -/
def State.frameEnd (e : Half) (s : State) : State :=
  { s.writeBuf gapEntry e with ready := true, idx := .inFrame 0 }

/-- Cases CHANNEL (R75) and OVERFLOW-CHANNEL (R76): a channel pulse at `InFrame(i)`. -/
def State.channelPulse (i : Fin 9) (e : Half) (s : State) : State :=
  if h : i.val < 8 then
    { s.writeBuf i e with idx := .inFrame ⟨i.val + 1, Nat.succ_lt_succ h⟩ }
  else s

/-- `Decode(e)` (R69). -/
def State.decodeEdge (e : Half) (s : State) : State :=
  if s.ready then s
  else if isSyncGap e then
    match s.idx with
    | .unsync => s.syncAcquire
    | .inFrame _ => s.frameEnd e
  else
    match s.idx with
    | .unsync => s
    | .inFrame i => s.channelPulse i e

/-- A rising edge: `e <- elapsedSinceReset() ; Decode(e)`, one atomic operation (R77, 60_exceptions.md R106). -/
def State.edge (s : State) : State :=
  let (e, s') := s.elapsedSinceReset
  s'.decodeEdge e

/-! ### The host register map (20_memory.md R33) -/

/-- The value of a register. CTRL and the reserved addresses read 0 (R35, R37). -/
def State.regValue (s : State) : Reg → Half
  | .ch k => s.readBuf (entryOfChannel k)
  | .gap => s.readBuf gapEntry
  | .status => statusWord s.idx s.ready
  | .ctrl => 0#16
  | .reserved => 0#16

/-- A host read of address `a`: `MemRead(a, 16)` (00_scope.md R11). -/
def State.readReg (s : State) (a : Addr) : Half := s.regValue (regAt a)

/-- RELEASE: `ready <- 0` and `idx <- UNSYNC` in one transition (42_host_interface.md R90). -/
def State.release (s : State) : State := { s with ready := false, idx := .unsync }

/-- A host write of `v` to address `a`: `MemWrite(a, 16, v)` (R11). Only CTRL bit 0 acts; every other write is ignored
(20_memory.md R33, R35, R37, R40). -/
def State.writeReg (s : State) (a : Addr) (v : Half) : State :=
  match regAt a with
  | .ch _ => s
  | .gap => s
  | .status => s
  | .ctrl => if releaseBit v then s.release else s
  | .reserved => s

/-! ### Reset -/

/-- RESET: every state element of the block to its reset value, and `rdata = 0` (70_reset_and_hazards.md R111,
60_exceptions.md R101). The agents outside the block are not reset (log 7). -/
def State.resetBlock (s : State) : State :=
  { s with
    buf := Vector.replicate 9 0#16
    ready := false
    idx := .unsync
    cnt := 0#16
    s1 := true
    s2 := true
    prev := true
    rdata := 0#16 }

/-! ### The input sampler (60_exceptions.md R103) -/

/-- `rise = (s2 = 1) and (prev = 0)`, from the values at the start of the cycle. -/
def State.rise (s : State) : Bool := s.s2 && !s.prev

/-- The end of the cycle: `prev <- s2; s2 <- s1; s1 <- ppm_in`. -/
def State.shiftSampler (ppmIn : Bool) (s : State) : State := { s with prev := s.s2, s2 := s.s1, s1 := ppmIn }

/-! ### Outcomes -/

/-- Go on from a next state; stop where the first outcome stops. -/
def andThen (o : Host.Outcome State Fault Refusal) (f : State → Host.Outcome State Fault Refusal) :
    Host.Outcome State Fault Refusal :=
  match o with
  | .next s => f s
  | .fault r => .fault r
  | .refused r => .refused r

end Sys2Proof.Machine
end

