-- ==== Sys2Proof/Machine/Cycle.lean ====
section
/-! DEFINITION. The cycle level (00_scope.md R9): one clock cycle from the values of the ports, in the order of
60_exceptions.md R101, and the operation words it stands for (30_encoding.md R61). -/

namespace Sys2Proof.Machine

/-- Step 2 of R101, the host access: a read drives `rdata`, a write acts by the register map (20_memory.md R31). -/
def State.hostAccess (p : PortIn) (s : State) : State :=
  if p.req then
    if p.we then s.writeReg p.addr p.wdata else s.driveRdata (s.readReg p.addr)
  else s

/-- Step 3 of R101. -/
def State.tickStrobe (p : PortIn) (s : State) : State := if p.tickEn then s.tick else s

/-- Step 4 of R101; `rise` is the value from the start of the cycle (R103). -/
def State.edgeIfRise (rise : Bool) (s : State) : State := if rise then s.edge else s

/-- One `clk` cycle (R101, R103). With `rst = 1` nothing but RESET happens. -/
def cycle (p : PortIn) (s : State) : State :=
  if p.rst then s.resetBlock
  else (((s.undriven.hostAccess p).tickStrobe p).edgeIfRise s.rise).shiftSampler p.ppmIn

/-- Consecutive cycles. -/
def runCycles : List PortIn → State → State
  | [], s => s
  | p :: ps, s => runCycles ps (cycle p s)

/-- The host word of a cycle: `RD @addr` or `WR @addr, #wdata` (R61 step 2). -/
def hostWords (p : PortIn) : List OpWord :=
  if p.req then [if p.we then wrWord p.addr p.wdata else rdWord p.addr] else []

/-- The operation words of one cycle (R61); `rise` says whether a rising edge is detected in it. -/
def cycleWords (p : PortIn) (rise : Bool) : List OpWord :=
  if p.rst then [0x300000#24]
  else hostWords p ++ (if p.tickEn then [0x000000#24] else []) ++ (if rise then [0x100000#24] else [])

end Sys2Proof.Machine
end

