-- ==== Sys2Proof/Machine/EdgeTimer.lean ====
section
/-! DEFINITION. The meaning of TICK (40_edge_timer.md). -/

namespace Sys2Proof.Machine

/-- TICK (R62). It happens whatever the value of `ready`. -/
def execTick (s : State) : Host.Outcome State Fault Refusal := .next s.tick

end Sys2Proof.Machine
end

