-- ==== Sys2Proof/Machine/FrameDecoder.lean ====
section
/-! DEFINITION. The meanings of EDGE and EDGE_E (41_frame_decoder.md). -/

namespace Sys2Proof.Machine

/-- EDGE (R77). -/
def execEdge (s : State) : Host.Outcome State Fault Refusal := .next s.edge

/-- EDGE_E (R78): "cnt is not read and not written". -/
def execEdgeE (e : Half) (s : State) : Host.Outcome State Fault Refusal := .next (s.decodeEdge e)

end Sys2Proof.Machine
end

