-- ==== Sys2Proof/Machine/HostRead.lean ====
section
/-! DEFINITION. The meanings of the host reads (42_host_interface.md R84 to R88). "Reads have no side effects"
(20_memory.md R40): only the port `rdata` is driven. -/

namespace Sys2Proof.Machine

/-- RD_CH (R84): `rdata <- buf[k]`. -/
def execRdCh (k : Fin 8) (s : State) : Host.Outcome State Fault Refusal :=
  .next (s.driveRdata (s.readBuf (entryOfChannel k)))

/-- RD_GAP (R85): `rdata <- buf[8]`. -/
def execRdGap (s : State) : Host.Outcome State Fault Refusal := .next (s.driveRdata (s.readBuf gapEntry))

/-- RD_STATUS (R86): `rdata <- {idx_enc[7:0], 0b0000000, ready}`. -/
def execRdStatus (s : State) : Host.Outcome State Fault Refusal := .next (s.driveRdata (statusWord s.idx s.ready))

/-- RD_CTRL (R87): `rdata <- 0x0000`; "the read does not perform RELEASE". -/
def execRdCtrl (s : State) : Host.Outcome State Fault Refusal := .next (s.driveRdata 0#16)

/-- RD_RSVD_B (R88): `rdata <- 0x0000`. -/
def execRdRsvdB (s : State) : Host.Outcome State Fault Refusal := .next (s.driveRdata 0#16)

/-- RD_RSVD_CF (R88): `rdata <- 0x0000`. -/
def execRdRsvdCf (_a : Addr) (s : State) : Host.Outcome State Fault Refusal := .next (s.driveRdata 0#16)

end Sys2Proof.Machine
end

