-- ==== Sys2Proof/Machine/HostWrite.lean ====
section
/-! DEFINITION. The meanings of the host writes (42_host_interface.md R89 to R92). Which operation a write is, the decoder
settles from its address and bit 0 of its data (30_encoding.md R55; log 8). -/

namespace Sys2Proof.Machine

/-- WR_RO_CH (R89): "no state changes. `wdata` is discarded." -/
def execWrRoCh (_a : Addr) (_wdata : Half) (s : State) : Host.Outcome State Fault Refusal := .next s

/-- WR_RO_GS (R89): "a write to STATUS does not change `ready` or `idx`". -/
def execWrRoGs (_a : Addr) (_wdata : Half) (s : State) : Host.Outcome State Fault Refusal := .next s

/-- RELEASE (R90): whatever the value of `ready`; "Bits [15:1] are ignored." -/
def execRelease (_wdata : Half) (s : State) : Host.Outcome State Fault Refusal := .next s.release

/-- WR_CTRL_NOP (R91): "no state changes". -/
def execWrCtrlNop (_wdata : Half) (s : State) : Host.Outcome State Fault Refusal := .next s

/-- WR_RSVD_B (R92): "no state changes". -/
def execWrRsvdB (_wdata : Half) (s : State) : Host.Outcome State Fault Refusal := .next s

/-- WR_RSVD_CF (R92): "no state changes". -/
def execWrRsvdCf (_a : Addr) (_wdata : Half) (s : State) : Host.Outcome State Fault Refusal := .next s

end Sys2Proof.Machine
end

