-- ==== Sys2Proof/Machine/Dispatch.lean ====
section
/-! DEFINITION. One arm per operation. -/

namespace Sys2Proof.Machine

def exec (i : Instr) (s : State) : Host.Outcome State Fault Refusal :=
  match i with
  | .tick => Sys2Proof.Machine.execTick s
  | .edge => Sys2Proof.Machine.execEdge s
  | .edgeE e => Sys2Proof.Machine.execEdgeE e s
  | .reset => Sys2Proof.Machine.execReset s
  | .rdCh k => Sys2Proof.Machine.execRdCh k s
  | .rdGap => Sys2Proof.Machine.execRdGap s
  | .rdStatus => Sys2Proof.Machine.execRdStatus s
  | .rdCtrl => Sys2Proof.Machine.execRdCtrl s
  | .rdRsvdB => Sys2Proof.Machine.execRdRsvdB s
  | .rdRsvdCf a => Sys2Proof.Machine.execRdRsvdCf a s
  | .wrRoCh a wdata => Sys2Proof.Machine.execWrRoCh a wdata s
  | .wrRoGs a wdata => Sys2Proof.Machine.execWrRoGs a wdata s
  | .release wdata => Sys2Proof.Machine.execRelease wdata s
  | .wrCtrlNop wdata => Sys2Proof.Machine.execWrCtrlNop wdata s
  | .wrRsvdB wdata => Sys2Proof.Machine.execWrRsvdB wdata s
  | .wrRsvdCf a wdata => Sys2Proof.Machine.execWrRsvdCf a wdata s

end Sys2Proof.Machine
end

