-- ==== Sys2Proof/Machine/Run.lean ====
section
/-! DEFINITION. Operations and operation words in a row (event level, 00_scope.md R9). -/

namespace Sys2Proof.Machine

/-- One operation word: decoded (30_encoding.md R55) and run, or refused by name (R56). -/
def execWord (w : OpWord) (s : State) : Host.Outcome State Fault Refusal :=
  match decode w with
  | .op i => exec i s
  | .refused why => .refused (.refusedWord why)

/-- A list of operations, in order: "each transition sees the effects of all transitions before it" (20_memory.md R42). -/
def runOps : List Instr → State → Host.Outcome State Fault Refusal
  | [], s => .next s
  | i :: is, s => andThen (exec i s) (runOps is)

/-- A list of operation words, in order. -/
def runWords : List OpWord → State → Host.Outcome State Fault Refusal
  | [], s => .next s
  | w :: ws, s => andThen (execWord w s) (runWords ws)

end Sys2Proof.Machine
end

