-- ==== Sys2Proof/Machine/ReporterAgent.lean ====
section
/-! DEFINITION. The Reporter protocol (42_host_interface.md Part 2) and the line it emits. "Part 2 is not hardware": the
Reporter uses the operations of Part 1 and nothing else (logs 7, 11). -/

namespace Sys2Proof.Machine

/-- The block operation the Reporter performs next. Polling: RD STATUS (R94). Draining with `n` values read: `RD CH(n+1)`
for `n < 8`, then RD GAP (R95). Then RELEASE (R96). In the pause: none (R97). -/
def Reporter.request (r : Reporter) : Option Instr :=
  match r.phase with
  | .polling => some .rdStatus
  | .draining got => if h : got.length < 8 then some (.rdCh ⟨got.length, h⟩) else some .rdGap
  | .releasing => some (.release 1#16)
  | .pausing _ => none

/-- What the Reporter does with the data its operation returned. Polling ends when `STATUS[0] = 1` (R94, R95). The ninth
value completes a report (R95; log 11). After RELEASE the pause begins (R97). -/
def Reporter.observe (r : Reporter) (rdata : Half) : Reporter :=
  match r.phase with
  | .polling => if rdata.getLsbD 0 then { r with phase := .draining [] } else r
  | .draining got =>
    let got' := got ++ [rdata]
    if got'.length < 9 then { r with phase := .draining got' }
    else ⟨.releasing, r.reports ++ [got']⟩
  | .releasing => { r with phase := .pausing Config.reporterPauseMs }
  | .pausing _ => r

/-- `ms` milliseconds of wall-clock time pass: the pause runs down, then polling resumes (R97). -/
def Reporter.elapse (r : Reporter) (ms : Nat) : Reporter :=
  match r.phase with
  | .pausing left => if left ≤ ms then { r with phase := .polling } else { r with phase := .pausing (left - ms) }
  | .polling => r
  | .draining _ => r
  | .releasing => r

/-- The Reporter's next move: its operation on the block, then what it makes of the answer. -/
def reporterMove (s : State) : Host.Outcome State Fault Refusal :=
  match s.reporter.request with
  | none => .next s
  | some i => andThen (exec i s) fun t => .next { t with reporter := t.reporter.observe t.rdata }

/-- Wall-clock time passes for the Reporter. No state of the block changes. -/
def reporterWait (ms : Nat) (s : State) : State := { s with reporter := s.reporter.elapse ms }

/-! ### The emitted line (R95) -/

/-- `total = v1 + ... + v8 + gap`, "a mathematical (unbounded) sum of the nine values read". -/
def reportTotal (vals : List Half) : Nat := (vals.map BitVec.toNat).sum

/-- "an unsigned decimal integer with no padding". -/
def decimal (n : Nat) : List Char := Nat.toDigits 10 n

/-- The pieces `"<index+1>: <value>; "`, the first with index `index`. -/
def channelPieces : Nat → List Half → List Char
  | _, [] => []
  | index, v :: vs => decimal (index + 1) ++ ": ".toList ++ decimal v.toNat ++ "; ".toList ++ channelPieces (index + 1) vs

/-- The line for nine values: the channels, `Pause: <gap>; Total = <total>` and a newline. -/
def reportLine (vals : List Half) : List Char :=
  channelPieces 0 (vals.take 8) ++ "Pause: ".toList ++ decimal (vals.getD 8 0#16).toNat ++ "; Total = ".toList
    ++ decimal (reportTotal vals) ++ ['\n']

/-- The line as bytes, in the open character encoding (D24; log 5). -/
def reportBytes (vals : List Half) : List Byte := (reportLine vals).flatMap Config.charset

end Sys2Proof.Machine
end

