-- ==== Sys2Proof/Machine/Step.lean ====
section
/-! DEFINITION. One step: the next stimulus of the list, at the event level or the cycle level. -/

namespace Sys2Proof.Machine

/-- The state in which a stimulus acts: it has left the list, and `rdata` is not driven yet (R31; log 3). -/
def State.beginStep (s : State) (rest : List Stimulus) : State := { s.undriven with inputs := rest }

/-- One step. With no stimulus left nothing acts (log 2). -/
def step (s : State) : Host.Outcome State Fault Refusal :=
  match s.inputs with
  | [] => .next (s.beginStep [])
  | .word w :: rest => execWord w (s.beginStep rest)
  | .ports p :: rest => .next (cycle p (s.beginStep rest))
  | .reporter :: rest => reporterMove (s.beginStep rest)
  | .elapse ms :: rest => .next (reporterWait ms (s.beginStep rest))

/-- `s` with this word as the next stimulus (log 1). The table's numbering is the word's own (log 16); the bits above
`nbits` are 0. -/
def State.withFetchWord (s : State) (nbits w : Nat) : State :=
  { s with inputs := .word (BitVec.ofNat 24 (w % 2 ^ nbits)) :: s.inputs }

end Sys2Proof.Machine
end

