-- ==== Sys2Proof/Machine/Assembler.lean ====
section
/-! DEFINITION. The assembler syntax and the pseudo-operations (30_encoding.md R59, R60; decision D18, "Notation only"),
and a reader of that syntax from text (log 14). -/

namespace Sys2Proof.Machine

/-- One line of assembler: the rows of R59, then those of R60. Channels are written by their entry `k` (channel `k+1`). -/
inductive AsmLine where
  | tick
  | edge
  | edgeE (e : Half)
  | reset
  | rdCh (k : Fin 8)
  | rdGap
  | rdStatus
  | rdCtrl
  | rdAt (a : Addr)
  | wrCh (k : Fin 8) (v : Half)
  | wrGap (v : Half)
  | wrStatus (v : Half)
  | wrCtrl (v : Half)
  | wrAt (a : Addr) (v : Half)
  /-- `RELEASE` -/
  | release
  /-- `TICKS #n` -/
  | ticks (n : Nat)
  /-- `INTERVAL #u` -/
  | interval (u : Nat)
  /-- `FRAME_E #a1, ..., #a8, #g` -/
  | frameE (a : Vector Half 8) (g : Half)
  /-- `REPORT` -/
  | report
  /-- `POLL` -/
  | poll
deriving DecidableEq, Repr

/-- `v` in the low 16 bits of a word. -/
def lowHalf (v : Half) : OpWord := v.setWidth 24

/-- `a·0x10000`. -/
def atAddr (a : Addr) : OpWord := BitVec.ofNat 24 (a.toNat * 0x10000)

/-- The words of a line: the second column of R59, the expansions of R60. -/
def AsmLine.words : AsmLine → List OpWord
  | .tick => [0x000000#24]
  | .edge => [0x100000#24]
  | .edgeE e => [0x200000#24 + lowHalf e]
  | .reset => [0x300000#24]
  | .rdCh k => [0x400000#24 + atAddr (addrOfChannel k)]
  | .rdGap => [0x480000#24]
  | .rdStatus => [0x490000#24]
  | .rdCtrl => [0x4A0000#24]
  | .rdAt a => [0x400000#24 + atAddr a]
  | .wrCh k v => [0x800000#24 + atAddr (addrOfChannel k) + lowHalf v]
  | .wrGap v => [0x800000#24 + atAddr 0x8#4 + lowHalf v]
  | .wrStatus v => [0x800000#24 + atAddr 0x9#4 + lowHalf v]
  | .wrCtrl v => [0x8A0000#24 + lowHalf v]
  | .wrAt a v => [0x800000#24 + atAddr a + lowHalf v]
  | .release => [0x8A0001#24]
  | .ticks n => List.replicate n 0x000000#24
  | .interval u => List.replicate (Config.ticksPerUs * u) 0x000000#24 ++ [0x100000#24]
  | .frameE a g => (a.toList ++ [g]).map fun e => 0x200000#24 + lowHalf e
  | .report =>
    (List.finRange 8).map (fun k => 0x400000#24 + atAddr (addrOfChannel k)) ++ [0x480000#24, 0x8A0001#24]
  | .poll => [0x490000#24]

/-! ### Reading the text form -/

/-- A token, if any characters of it were collected. -/
def flushToken (cur : List Char) : List (List Char) := if cur.isEmpty then [] else [cur]

/-- The tokens of a line: blanks separate, a comma is a token, `;` starts a comment. -/
def tokens : List Char → List Char → List (List Char)
  | [], cur => flushToken cur
  | c :: cs, cur =>
    if c = ';' then flushToken cur
    else if c = ' ' ∨ c = '\t' ∨ c = '\r' then flushToken cur ++ tokens cs []
    else if c = ',' then flushToken cur ++ [','] :: tokens cs []
    else tokens cs (cur ++ [c])

/-- The value of a digit in base 10 or 16. -/
def digitValue (base : Nat) (c : Char) : Option Nat :=
  let n := c.toNat
  let v :=
    if 48 ≤ n ∧ n ≤ 57 then n - 48
    else if 65 ≤ n ∧ n ≤ 70 then n - 55
    else if 97 ≤ n ∧ n ≤ 102 then n - 87
    else base
  if v < base then some v else none

/-- The digits of a number, most significant first, after `acc`. -/
def digitsValue (base : Nat) : List Char → Nat → Option Nat
  | [], acc => some acc
  | c :: cs, acc => (digitValue base c).bind fun v => digitsValue base cs (acc * base + v)

/-- "Numbers are decimal, or hexadecimal with `0x`" (R59). -/
def number : List Char → Option Nat
  | [] => none
  | '0' :: 'x' :: c :: cs => digitsValue 16 (c :: cs) 0
  | c :: cs => digitsValue 10 (c :: cs) 0

/-- "`#` marks an immediate" (R59). -/
def immediate : List Char → Option Nat
  | '#' :: cs => number cs
  | _ => none

/-- An immediate of 16 bits. -/
def immediate16 (t : List Char) : Option Half :=
  (immediate t).bind fun n => if n < 2 ^ 16 then some (BitVec.ofNat 16 n) else none

/-- A register operand: CH1 to CH8, GAP, STATUS, CTRL, or `@a` with `a` = 0xB..0xF (R59). -/
inductive RegOperand where
  | ch (k : Fin 8)
  | gap
  | status
  | ctrl
  | reserved (a : Addr)
deriving DecidableEq, Repr

/-- The named registers (20_memory.md R33). -/
def regNames : List (List Char × RegOperand) :=
  [("CH1".toList, .ch 0), ("CH2".toList, .ch 1), ("CH3".toList, .ch 2), ("CH4".toList, .ch 3),
   ("CH5".toList, .ch 4), ("CH6".toList, .ch 5), ("CH7".toList, .ch 6), ("CH8".toList, .ch 7),
   ("GAP".toList, .gap), ("STATUS".toList, .status), ("CTRL".toList, .ctrl)]

/-- A register operand from its token. -/
def regOperand : List Char → Option RegOperand
  | '@' :: cs => (number cs).bind fun n => if 0xB ≤ n ∧ n ≤ 0xF then some (.reserved (BitVec.ofNat 4 n)) else none
  | t => regNames.lookup t

/-- `RD <register>`. -/
def rdLine : RegOperand → AsmLine
  | .ch k => .rdCh k
  | .gap => .rdGap
  | .status => .rdStatus
  | .ctrl => .rdCtrl
  | .reserved a => .rdAt a

/-- `WR <register>, #v`. -/
def wrLine (v : Half) : RegOperand → AsmLine
  | .ch k => .wrCh k v
  | .gap => .wrGap v
  | .status => .wrStatus v
  | .ctrl => .wrCtrl v
  | .reserved a => .wrAt a v

/-- The operations written without an operand. -/
def plainLines : List (List Char × AsmLine) :=
  [("TICK".toList, .tick), ("EDGE".toList, .edge), ("RESET".toList, .reset), ("RELEASE".toList, .release),
   ("REPORT".toList, .report), ("POLL".toList, .poll)]

/-- 16-bit immediates separated by commas. -/
def immediates : List (List Char) → Option (List Half)
  | [t] => (immediate16 t).map fun v => [v]
  | t :: [','] :: ts => (immediate16 t).bind fun v => (immediates ts).map fun vs => v :: vs
  | _ => none

/-- The nine immediates of FRAME_E. -/
def frameLine (vs : List Half) : Option AsmLine :=
  match vs with
  | [a1, a2, a3, a4, a5, a6, a7, a8, g] => some (.frameE #v[a1, a2, a3, a4, a5, a6, a7, a8] g)
  | _ => none

/-- A line from its tokens, if they are one operation of R59 or R60. -/
def lineOfTokens : List (List Char) → Option AsmLine
  | [t] => plainLines.lookup t
  | [t, x] =>
    if t = "EDGE_E".toList then (immediate16 x).map .edgeE
    else if t = "RD".toList then (regOperand x).map rdLine
    else if t = "TICKS".toList then (immediate x).map .ticks
    else if t = "INTERVAL".toList then (immediate x).map .interval
    else none
  | t :: x :: ts =>
    if t = "WR".toList then
      match ts with
      | [[','], v] => (immediate16 v).bind fun n => (regOperand x).map (wrLine n)
      | _ => none
    else if t = "FRAME_E".toList then (immediates (x :: ts)).bind frameLine
    else none
  | [] => none

/-- "One operation per line" (R59): the words of one line of text; a line with no token has none. -/
def assembleLine (line : List Char) : Option (List OpWord) :=
  match tokens line [] with
  | [] => some []
  | t :: ts => (lineOfTokens (t :: ts)).map AsmLine.words

/-- The lines of a text; `cur` is the line being collected. -/
def textLines : List Char → List Char → List (List Char)
  | [], cur => [cur]
  | c :: cs, cur => if c = '\n' then cur :: textLines cs [] else textLines cs (cur ++ [c])

/-- The words of lines of text, in order. -/
def assembleLines : List (List Char) → Option (List OpWord)
  | [] => some []
  | l :: ls => (assembleLine l).bind fun ws => (assembleLines ls).map fun rest => ws ++ rest

/-- The operation words of a text. -/
def assemble (text : List Char) : Option (List OpWord) := assembleLines (textLines text [])

end Sys2Proof.Machine
end

