-- ==== Sys2Proof/Machine/Platform.lean ====
section
/-! DEFINITION. What the platform chooses around the block: where its locations appear and how a byte-addressed bus holds
a register (20_memory.md R38, R41). Outside the block; no meaning uses it (log 5). -/

namespace Sys2Proof.Machine

/-- The host's word address of the block's register `a`: "Only the offsets of rule R33 are fixed" (R41). -/
def hostAddr (a : Addr) : Nat := Config.baseAddr + a.toNat

/-- The register a host word address selects, if it is one of the block's 16 locations. -/
def blockAddr (n : Nat) : Option Addr :=
  if Config.baseAddr ≤ n ∧ n < Config.baseAddr + 16 then some (BitVec.ofNat 4 (n - Config.baseAddr)) else none

/-- The two bytes of a register on a byte-addressed bus, the byte at the lower address first (R38). -/
def busBytes (order : Config.ByteOrder) (v : Half) : Byte × Byte :=
  match order with
  | .lowFirst => (v.extractLsb' 0 8, v.extractLsb' 8 8)
  | .highFirst => (v.extractLsb' 8 8, v.extractLsb' 0 8)

/-- The register value two such bytes stand for. -/
def ofBusBytes (order : Config.ByteOrder) (b : Byte × Byte) : Half :=
  match order with
  | .lowFirst => b.2 ++ b.1
  | .highFirst => b.1 ++ b.2

end Sys2Proof.Machine
end

