-- ==== Sys2Proof/Safety.lean ====
section
/-! DEFINITION. The terms in which claims are stated: the invariants of 10_state.md section 6, the case table of
41_frame_decoder.md R80, and which operations release or reset the block. -/

namespace Sys2Proof.Machine

/-! ### Invariants (10_state.md) -/

/-- INV1: "`ready = 1` implies `idx = 0`" (R25). -/
def ReadyAtStart (s : State) : Prop := s.ready = true → s.idx = .inFrame 0

/-- INV3, the channels: each of `buf[0]` to `buf[7]` is at most 2500 (R27). -/
def ChannelsInRange (s : State) : Prop := ∀ k : Fin 8, (s.readBuf (entryOfChannel k)).toNat ≤ 2500

/-- INV3, the gap: `buf[8]` is 0 or greater than 2500 (R27). -/
def GapInRange (s : State) : Prop := (s.readBuf gapEntry).toNat = 0 ∨ 2500 < (s.readBuf gapEntry).toNat

/-- INV1 and INV3 together. -/
structure Inv (s : State) : Prop where
  readyAtStart : ReadyAtStart s
  channels : ChannelsInRange s
  gap : GapInRange s

/-! ### Kinds of operations -/

/-- RELEASE or RESET (R26, 20_memory.md R44). -/
def releasesOrResets : Instr → Bool
  | .tick => false
  | .edge => false
  | .edgeE _ => false
  | .reset => true
  | .rdCh _ => false
  | .rdGap => false
  | .rdStatus => false
  | .rdCtrl => false
  | .rdRsvdB => false
  | .rdRsvdCf _ => false
  | .wrRoCh _ _ => false
  | .wrRoGs _ _ => false
  | .release _ => true
  | .wrCtrlNop _ => false
  | .wrRsvdB _ => false
  | .wrRsvdCf _ _ => false

/-- An operation of the decoder context: EDGE or EDGE_E (60_exceptions.md R108). -/
def inDecoderContext : Instr → Bool
  | .tick => false
  | .edge => true
  | .edgeE _ => true
  | .reset => false
  | .rdCh _ => false
  | .rdGap => false
  | .rdStatus => false
  | .rdCtrl => false
  | .rdRsvdB => false
  | .rdRsvdCf _ => false
  | .wrRoCh _ _ => false
  | .wrRoGs _ _ => false
  | .release _ => false
  | .wrCtrlNop _ => false
  | .wrRsvdB _ => false
  | .wrRsvdCf _ _ => false

/-- An operation of the host context: RD_* or WR_*, RELEASE among them (R108). -/
def inHostContext : Instr → Bool
  | .tick => false
  | .edge => false
  | .edgeE _ => false
  | .reset => false
  | .rdCh _ => true
  | .rdGap => true
  | .rdStatus => true
  | .rdCtrl => true
  | .rdRsvdB => true
  | .rdRsvdCf _ => true
  | .wrRoCh _ _ => true
  | .wrRoGs _ _ => true
  | .release _ => true
  | .wrCtrlNop _ => true
  | .wrRsvdB _ => true
  | .wrRsvdCf _ _ => true

/-- The cycle writes CTRL with the RELEASE bit set, or resets (20_memory.md R31, R35). -/
def portsReleaseOrReset (p : PortIn) : Bool := p.rst || (p.req && p.we && p.addr == 0xA#4 && releaseBit p.wdata)

/-- The stimulus releases or resets the block other than by the Reporter's own protocol. -/
def foreignRelease : Stimulus → Bool
  | .word w => match decode w with
    | .op i => releasesOrResets i
    | .refused _ => false
  | .ports p => portsReleaseOrReset p
  | .reporter => false
  | .elapse _ => false

/-! ### The decoder, case by case -/

/-- The rows of the next-state table of `Decode(e)` (41_frame_decoder.md R80), `e` in µs. -/
structure DecodeTable (e : Half) (s t : State) : Prop where
  /-- DROP (R70) -/
  drop : s.ready = true → t = s
  /-- SYNC-ACQUIRE (R72) -/
  syncAcquire : s.ready = false → s.idx = .unsync → 2500 < e.toNat → t = { s with idx := .inFrame 0 }
  /-- FRAME-END (R73) -/
  frameEnd : ∀ i, s.ready = false → s.idx = .inFrame i → 2500 < e.toNat →
    t = { s with buf := s.buf.set 8 e, ready := true, idx := .inFrame 0 }
  /-- WAIT-SYNC (R74) -/
  waitSync : s.ready = false → s.idx = .unsync → e.toNat ≤ 2500 → t = s
  /-- CHANNEL (R75) -/
  channel : ∀ i : Fin 8, s.ready = false → s.idx = .inFrame i.castSucc → e.toNat ≤ 2500 →
    t = { s with buf := s.buf.set i.val e, idx := .inFrame i.succ }
  /-- OVERFLOW-CHANNEL (R76) -/
  overflowChannel : s.ready = false → s.idx = .inFrame 8 → e.toNat ≤ 2500 → t = s

/-- The operation is an edge that the decoder classifies as a sync gap in this state: intervals are classified only when
`ready = 0` (R71, R77, R78). -/
def isSyncEdge (s : State) : Instr → Bool
  | .tick => false
  | .edge => !s.ready && isSyncGap (usOfTicks s.cnt)
  | .edgeE e => !s.ready && isSyncGap e
  | .reset => false
  | .rdCh _ => false
  | .rdGap => false
  | .rdStatus => false
  | .rdCtrl => false
  | .rdRsvdB => false
  | .rdRsvdCf _ => false
  | .wrRoCh _ _ => false
  | .wrRoGs _ _ => false
  | .release _ => false
  | .wrCtrlNop _ => false
  | .wrRsvdB _ => false
  | .wrRsvdCf _ _ => false

/-- How many edges of a run are classified as sync gaps. -/
def syncEdges : List Instr → State → Nat
  | [], _ => 0
  | i :: is, s =>
    (if isSyncEdge s i then 1 else 0) +
      match exec i s with
      | .next t => syncEdges is t
      | .fault _ => 0
      | .refused _ => 0

/-- The number of TICKs since the last EDGE or RESET after one more operation (10_state.md R28: "EDGE_E does not reset
`cnt`"). -/
def ticksAfter (n : Nat) : Instr → Nat
  | .tick => n + 1
  | .edge => 0
  | .edgeE _ => n
  | .reset => 0
  | .rdCh _ => n
  | .rdGap => n
  | .rdStatus => n
  | .rdCtrl => n
  | .rdRsvdB => n
  | .rdRsvdCf _ => n
  | .wrRoCh _ _ => n
  | .wrRoGs _ _ => n
  | .release _ => n
  | .wrCtrlNop _ => n
  | .wrRsvdB _ => n
  | .wrRsvdCf _ _ => n

/-! ### The Reporter -/

/-- What holds at each point of the Reporter's protocol when nobody else releases or resets the block (20_memory.md R44,
42_host_interface.md R98): while it drains, `ready = 1` and the values it has read are the buffer's first entries; once
all are read, its last report is the buffer. -/
def ReporterInv (s : State) : Prop :=
  match s.reporter.phase with
  | .polling => True
  | .draining got => s.ready = true ∧ got.length ≤ 8 ∧ got = s.buf.toList.take got.length
  | .releasing => s.ready = true ∧ s.reporter.reports.getLast? = some s.buf.toList
  | .pausing _ => True

/-! ### Platform premises (70_reset_and_hazards.md R114) -/

/-- "`clk`, with `F_CLK >= F_TICK`". -/
def ClockFastEnough : Prop := Config.fTickHz ≤ Config.fClkHz

end Sys2Proof.Machine
end

