-- ==== Sys2Proof/Certificates/Slice0/Obligations.lean ====
section
/-! DEFINITION. What is claimed of the block: one statement per definition, each with the rule of spec/ it rests on. -/

open Sys2Proof Sys2Proof.Machine

/-! ### The operations, one by one: their words, that they complete, and the whole next state -/

/-- R62: the word of TICK, and TICK in every state. Every field but `cnt` is unchanged, whatever `ready` is. -/
def Obligations.TickIncrementsCounter : Prop :=
  decode 0x000000#24 = .op .tick ∧
  ∀ s : State, exec .tick s = .next { s with cnt := BitVec.ofNat 16 ((s.cnt.toNat + 1) % 2 ^ 16) }

/-- R77 with R64: the word of EDGE; EDGE is `Decode` of `cnt div 2` on the state whose counter is 0, by the table R80. -/
def Obligations.EdgeDecodesTheTimedInterval : Prop :=
  decode 0x100000#24 = .op .edge ∧
  ∀ s : State, ∃ t, exec .edge s = .next t ∧
    DecodeTable (BitVec.ofNat 16 (s.cnt.toNat / 2)) { s with cnt := 0#16 } t

/-- R78 and the cases R70, R72 to R76 (tabulated in R80): the words of EDGE_E, and EDGE_E in every state for every `e`.
`cnt` is neither read nor written. -/
def Obligations.EdgeEDecodesTheGivenInterval : Prop :=
  ∀ e : Half, decode (0x20#8 ++ e) = .op (.edgeE e) ∧
  ∀ s : State, ∃ t, exec (.edgeE e) s = .next t ∧ DecodeTable e s t ∧
    ∀ c : Half, exec (.edgeE e) { s with cnt := c } = .next { t with cnt := c }

/-- R111: the word of RESET; RESET in every state; and, at the cycle level, that a cycle with `rst = 1` is RESET and nothing
else, whatever the other ports, for one cycle or several. The model's choices in it: that the event-level operation also
leaves `rdata` at 0 (log 3), and that the stimuli and the Reporter are not reset (log 7). -/
def Obligations.ResetRestoresEveryElement : Prop :=
  decode 0x300000#24 = .op .reset ∧
  ∀ s : State, exec .reset s = .next
    { s with
      buf := Vector.replicate 9 0#16, ready := false, idx := .unsync, cnt := 0#16
      s1 := true, s2 := true, prev := true, rdata := 0#16 } ∧
    ∀ p : PortIn, p.rst = true → exec .reset s = .next (cycle p s) ∧
      ∀ ps : List PortIn, (∀ q ∈ ps, q.rst = true) → runCycles ps (cycle p s) = cycle p s

/-- R84 and R85: the words of RD_CH and RD_GAP; each returns its buffer entry and changes nothing but `rdata`; after RESET
both read 0; given INV3, GAP reads 0 or above 2500. -/
def Obligations.BufferReadsReturnTheEntry : Prop :=
  (∀ k : Fin 8, decode (0b01000#5 ++ BitVec.ofNat 3 k.val ++ 0#16) = .op (.rdCh k) ∧
    ∀ s : State, exec (.rdCh k) s = .next { s with rdata := s.buf[k.val] }) ∧
  decode 0x480000#24 = .op .rdGap ∧
  ∀ s : State, exec .rdGap s = .next { s with rdata := s.buf[8] } ∧
    (∀ k : Fin 8, ∃ t, runOps [.reset, .rdCh k] s = .next t ∧ t.rdata = 0#16) ∧
    (∃ t, runOps [.reset, .rdGap] s = .next t ∧ t.rdata = 0#16) ∧
    (GapInRange s → ∃ t, exec .rdGap s = .next t ∧ (t.rdata = 0#16 ∨ 2500 < t.rdata.toNat))

/-- R86: the word of RD_STATUS; bits 15:8 are the index (UNSYNC as 0xFF), bits 7:1 are 0, bit 0 is `ready`, and nothing
but `rdata` changes. After RESET it returns 0xFF00; given INV1, it returns 0x0001 while `ready = 1`. -/
def Obligations.StatusReadReturnsIndexAndReady : Prop :=
  decode 0x490000#24 = .op .rdStatus ∧
  ∀ s : State, ∃ v : Half, exec .rdStatus s = .next { s with rdata := v } ∧
    (s.idx = .unsync → v.extractLsb' 8 8 = 0xFF#8) ∧
    (∀ i : Fin 9, s.idx = .inFrame i → (v.extractLsb' 8 8).toNat = i.val) ∧
    v.extractLsb' 1 7 = 0#7 ∧ v.getLsbD 0 = s.ready ∧
    (ReadyAtStart s → s.ready = true → v = 0x0001#16) ∧
    ∃ t, runOps [.reset, .rdStatus] s = .next t ∧ t.rdata = 0xFF00#16

/-- R87 and R88: reads of CTRL and of the reserved addresses return 0 and change nothing else; no RELEASE, no fault. -/
def Obligations.ControlAndReservedReadsReturnZero : Prop :=
  decode 0x4A0000#24 = .op .rdCtrl ∧ decode 0x4B0000#24 = .op .rdRsvdB ∧
  (∀ a : Addr, 0xC ≤ a.toNat → decode (0b0100#4 ++ a ++ 0#16) = .op (.rdRsvdCf a)) ∧
  ∀ s : State,
    exec .rdCtrl s = .next { s with rdata := 0#16 } ∧ exec .rdRsvdB s = .next { s with rdata := 0#16 } ∧
    ∀ a : Addr, exec (.rdRsvdCf a) s = .next { s with rdata := 0#16 }

/-- R89, R91 and R92: the words of the writes that have no effect, and that they complete with no state change. -/
def Obligations.WritesWithoutEffectChangeNothing : Prop :=
  (∀ (a : Addr) (v : Half), a.toNat ≤ 0x7 → decode (0b1000#4 ++ a ++ v) = .op (.wrRoCh a v)) ∧
  (∀ (a : Addr) (v : Half), a = 0x8#4 ∨ a = 0x9#4 → decode (0b1000#4 ++ a ++ v) = .op (.wrRoGs a v)) ∧
  (∀ v : Half, v.getLsbD 0 = false → decode (0x8A#8 ++ v) = .op (.wrCtrlNop v)) ∧
  (∀ v : Half, decode (0x8B#8 ++ v) = .op (.wrRsvdB v)) ∧
  (∀ (a : Addr) (v : Half), 0xC ≤ a.toNat → decode (0b1000#4 ++ a ++ v) = .op (.wrRsvdCf a v)) ∧
  ∀ (s : State) (a : Addr) (v : Half),
    exec (.wrRoCh a v) s = .next s ∧ exec (.wrRoGs a v) s = .next s ∧ exec (.wrCtrlNop v) s = .next s ∧
    exec (.wrRsvdB v) s = .next s ∧ exec (.wrRsvdCf a v) s = .next s

/-- R90: the words of RELEASE; whatever `ready` is, RELEASE clears it and sets the index to UNSYNC, changes nothing else,
and twice in a row is the same as once. A tick or an edge in the same cycle is processed after it. -/
def Obligations.ReleaseClearsReadyAndResynchronises : Prop :=
  ∀ v : Half, (v.getLsbD 0 = true → decode (0x8A#8 ++ v) = .op (.release v)) ∧
  ∀ s : State, exec (.release v) s = .next { s with ready := false, idx := .unsync } ∧
    runOps [.release v, .release v] s = exec (.release v) s ∧
    ∀ p : PortIn, p.rst = false → p.req = true → p.we = true → p.addr = 0xA#4 → p.wdata.getLsbD 0 = true →
      ∃ t, exec (.release p.wdata) s = .next t ∧ cycle p s = cycle { p with req := false } t

/-- R99: "Every operation of the opcode map completes": no operation faults or is refused, in any state. -/
def Obligations.EveryOperationCompletes : Prop := ∀ (i : Instr) (s : State), ∃ t, exec i s = .next t

/-! ### The Edge Timer -/

/-- R65: EDGE sets the counter to 0 in every case, also when the edge is dropped or ignored. -/
def Obligations.EveryEdgeRestartsTheTimer : Prop := ∀ s : State, ∃ t, exec .edge s = .next t ∧ t.cnt = 0#16

/-- R65, R66, R113: after any operations, whatever the decoder did with the edges among them, EDGE sets the counter to 0
and otherwise acts as EDGE_E with `(n mod 2^16) div 2`, where `n` is the number of TICKs since the last EDGE or RESET. -/
def Obligations.EdgeMeasuresTheTicksSinceTheLastEdge : Prop :=
  ∀ (ops : List Instr) (n : Nat) (s : State), s.cnt = BitVec.ofNat 16 n →
    ∃ t, runOps (ops ++ [.edgeE (BitVec.ofNat 16 (ops.foldl ticksAfter n % 2 ^ 16 / 2))]) s = .next t ∧
      runOps (ops ++ [.edge]) s = .next { t with cnt := 0#16 }

/-- R67: only TICK, EDGE and RESET change the counter. -/
def Obligations.OnlyTickEdgeAndResetChangeTheCounter : Prop :=
  ∀ (i : Instr) (s t : State), exec i s = .next t → t.cnt ≠ s.cnt → i = .tick ∨ i = .edge ∨ i = .reset

/-- R68: the threshold in ticks. In a frame with `ready = 0`, EDGE ends the frame exactly when `cnt` is at least 5002. -/
def Obligations.SyncThresholdIsFiveThousandAndTwoTicks : Prop :=
  ∀ (s : State) (i : Fin 9), s.ready = false → s.idx = .inFrame i →
    (2500 < (usOfTicks s.cnt).toNat ↔ 5002 ≤ s.cnt.toNat) ∧
    ((usOfTicks s.cnt).toNat ≤ 2500 ↔ s.cnt.toNat ≤ 5001) ∧
    ∃ t, exec .edge s = .next t ∧ (t.ready = true ↔ 5002 ≤ s.cnt.toNat)

/-- R28 (INV4): after any operations, `cnt` is the number of TICKs since the last EDGE or RESET, modulo 2^16. `n` is that
number before them; at reset it is 0. -/
def Obligations.CounterCountsTicksSinceEdgeOrReset : Prop :=
  State.reset.cnt = 0#16 ∧
  ∀ (ops : List Instr) (n : Nat) (s : State), s.cnt = BitVec.ofNat 16 n →
    ∃ t, runOps ops s = .next t ∧ t.cnt = BitVec.ofNat 16 (ops.foldl ticksAfter n)

/-! ### Who may change what -/

/-- R18: only the Frame Decoder (EDGE, EDGE_E), RELEASE and RESET write `idx`. -/
def Obligations.OnlyDecoderReleaseAndResetWriteTheIndex : Prop :=
  ∀ (i : Instr) (s t : State), exec i s = .next t → t.idx ≠ s.idx →
    inDecoderContext i = true ∨ (∃ v, i = .release v) ∨ i = .reset

/-- R16, R108: the decoder alone sets `ready`; RELEASE and RESET alone clear it. -/
def Obligations.OnlyDecoderSetsReadyOnlyReleaseAndResetClearIt : Prop :=
  ∀ (i : Instr) (s t : State), exec i s = .next t →
    (s.ready = false → t.ready = true → inDecoderContext i = true) ∧
    (s.ready = true → t.ready = false → (∃ v, i = .release v) ∨ i = .reset)

/-- R108, R67, R30: a host operation does not change the buffer or the counter, does not set `ready`, and neither its effect nor the
data it returns depends on the counter or on the sampler. -/
def Obligations.HostOperationsNeitherChangeNorSeeTheTimer : Prop :=
  ∀ (i : Instr) (s : State), inHostContext i = true → ∃ t, exec i s = .next t ∧
    t.buf = s.buf ∧ t.cnt = s.cnt ∧ (t.ready = true → s.ready = true) ∧
    ∀ (c : Half) (x y z : Bool),
      exec i { s with cnt := c, s1 := x, s2 := y, prev := z } =
        .next { t with cnt := c, s1 := x, s2 := y, prev := z }

/-- R15, R43: an operation that changes a channel entry `k` found the decoder in `InFrame(k)` and leaves it in
`InFrame(k+1)`; one that changes `buf[8]` found it in a frame and sets `ready`. RESET aside. -/
def Obligations.EntriesAreWrittenInFrameOrder : Prop :=
  ∀ (i : Instr) (s t : State), i ≠ .reset → exec i s = .next t →
    (∀ k : Fin 8, t.buf[k.val] ≠ s.buf[k.val] →
      s.ready = false ∧ s.idx = .inFrame k.castSucc ∧ t.idx = .inFrame k.succ) ∧
    (t.buf[8] ≠ s.buf[8] → s.ready = false ∧ (∃ j, s.idx = .inFrame j) ∧ t.ready = true ∧ t.idx = .inFrame 0)

/-- R40: repeating a host access at once changes nothing more and returns the same data; apart from RELEASE, a host access
changes nothing but `rdata`. -/
def Obligations.HostAccessesAreIdempotent : Prop :=
  ∀ (i : Instr) (s : State), inHostContext i = true → ∃ t, exec i s = .next t ∧ exec i t = .next t ∧
    (releasesOrResets i = false → t = { s with rdata := t.rdata })

/-! ### Reset and the invariants of 10_state.md -/

/-- R24: the reset state, element by element, and that RESET leaves every element so; and STATUS after reset (R34). The
model's choices in it: that the event-level operation also leaves `rdata` at 0 (log 3), and that the stimuli and the
Reporter are not reset (log 7). -/
def Obligations.ResetStateHasTheStatedValues : Prop :=
  (∀ k : Fin 9, State.reset.buf[k] = 0#16) ∧ State.reset.ready = false ∧ State.reset.idx = .unsync ∧
  State.reset.cnt = 0#16 ∧ State.reset.s1 = true ∧ State.reset.s2 = true ∧ State.reset.prev = true ∧
  State.reset.readReg 0x9#4 = 0xFF00#16 ∧
  ∀ s : State, exec .reset s = .next { State.reset with inputs := s.inputs, reporter := s.reporter }

/-- The invariants INV1 (R25) and INV3 (R27) hold in the reset state. -/
def Obligations.ResetStateMeetsTheInvariants : Prop := Inv State.reset

/-- Every step, at the event level, at the cycle level or of the Reporter, keeps INV1 and INV3, from every state that
meets them. -/
def Obligations.EveryStepKeepsTheInvariants : Prop := ∀ s t : State, Inv s → step s = .next t → Inv t

/-- R25 and R27: in every state that a run from reset reaches, whatever the stimuli, INV1 and INV3 hold; and `buf[8]` is
at most 32767 if no stimulus of the run is an EDGE_E word. That a run takes its stimuli from a list is log 1, that it
starts at the reset state log 10: the model's choices. -/
def Obligations.EveryReachableStateMeetsTheInvariants : Prop :=
  ∀ (inputs : List Stimulus) (n : Nat) (t : State),
    Host.Core.run core n { State.reset with inputs := inputs } = .next t →
      Inv t ∧ (t.buf[8]).toNat ≤ 65535 ∧
      ((∀ e : Half, Stimulus.word (encode (.edgeE e)) ∉ inputs) → (t.buf[8]).toNat ≤ 32767)

/-- R27, the bound on `buf[8]` that the Edge Timer gives, as every step keeps it: a step whose stimulus is no EDGE_E word
leaves `buf[8]` at most 32767 if it was. The list of stimuli is log 1, the model's choice. -/
def Obligations.EveryStepKeepsTheTimerBoundOnTheGap : Prop :=
  ∀ s t : State, (s.buf[8]).toNat ≤ 32767 →
    (∀ x ∈ s.inputs.head?, ∀ e : Half, x ≠ .word (encode (.edgeE e))) → step s = .next t → (t.buf[8]).toNat ≤ 32767

/-- R26 (INV2): while `ready = 1`, no operation but RELEASE and RESET changes `buf`, `ready` or `idx`; TICK and EDGE still
change `cnt`. -/
def Obligations.ReadyProtectsTheFrame : Prop :=
  ∀ s : State, s.ready = true →
    (∀ i : Instr, releasesOrResets i = false →
      ∃ t, exec i s = .next t ∧ t.buf = s.buf ∧ t.ready = true ∧ t.idx = s.idx) ∧
    exec .tick s = .next { s with cnt := s.cnt + 1#16 } ∧ exec .edge s = .next { s with cnt := 0#16 }

/-- R44: from `ready = 1`, any operations without RELEASE and RESET leave every register reading as before. -/
def Obligations.HandshakeReadsOneFrameSnapshot : Prop :=
  ∀ (ops : List Instr) (s : State), s.ready = true → (∀ i ∈ ops, releasesOrResets i = false) →
    ∃ t, runOps ops s = .next t ∧ t.ready = true ∧ ∀ a : Addr, t.readReg a = s.readReg a

/-- R34: given INV1, the values STATUS can read. -/
def Obligations.StatusReadsOnlyTheListedValues : Prop :=
  ∀ s : State, ReadyAtStart s →
    (s.ready = false ∧ (s.readReg 0x9#4 = 0xFF00#16 ∨ ∃ i : Fin 9, s.readReg 0x9#4 = BitVec.ofNat 16 (i.val * 256))) ∨
    (s.ready = true ∧ s.readReg 0x9#4 = 0x0001#16)

/-! ### Frames -/

/-- R82: a well-formed frame decodes exactly, from `InFrame(0)` and, after one sync edge, from UNSYNC; `ready` is asserted
at the ninth edge and at no earlier one. -/
def Obligations.WellFormedFrameDecodesExactly : Prop :=
  ∀ (s : State) (p : Vector Half 8) (g : Half), s.ready = false → (∀ k : Fin 8, (p[k]).toNat ≤ 2500) → 2500 < g.toNat →
    (s.idx = .inFrame 0 →
      runOps ((p.push g).toList.map .edgeE) s = .next { s with buf := p.push g, ready := true, idx := .inFrame 0 } ∧
      ∀ n ≤ 8, ∃ t, runOps (((p.push g).toList.map .edgeE).take n) s = .next t ∧ t.ready = false) ∧
    (s.idx = .unsync → ∀ g₀ : Half, 2500 < g₀.toNat →
      runOps (.edgeE g₀ :: (p.push g).toList.map .edgeE) s =
        .next { s with buf := p.push g, ready := true, idx := .inFrame 0 })

/-- R81: a frame that ends after `m < 8` channel pulses keeps the entries from `m` on as they were, and STATUS reads as
after a full frame. -/
def Obligations.ShortFrameKeepsStaleEntries : Prop :=
  ∀ (s : State) (p : List Half) (g : Half), s.ready = false → s.idx = .inFrame 0 → p.length < 8 →
    (∀ e ∈ p, e.toNat ≤ 2500) → 2500 < g.toNat →
    ∃ t, runOps ((p ++ [g]).map .edgeE) s = .next t ∧ t.ready = true ∧ t.readReg 0x9#4 = 0x0001#16 ∧ t.buf[8] = g ∧
      (∀ k : Fin 8, ∀ h : k.val < p.length, t.buf[k.val] = p[k.val]) ∧
      (∀ k : Fin 8, p.length ≤ k.val → t.buf[k.val] = s.buf[k.val])

/-- R83: after RELEASE, whatever operations follow, `ready` is 1 again only after at least two edges classified as sync
gaps. -/
def Obligations.ReportAfterReleaseNeedsTwoSyncGaps : Prop :=
  ∀ (s t : State) (v : Half) (ops : List Instr), runOps (.release v :: ops) s = .next t → t.ready = true →
    2 ≤ syncEdges ops { s with ready := false, idx := .unsync }

/-- R100: from `ready = 0`, as long as no edge is classified as a sync gap, `ready` stays 0. -/
def Obligations.NoSyncGapNoReport : Prop :=
  ∀ (s : State) (ops : List Instr), s.ready = false → syncEdges ops s = 0 →
    ∃ t, runOps ops s = .next t ∧ t.ready = false

/-! ### Operation words -/

/-- Decoding the word of a well-formed operation gives the operation back, with every operand at every value. -/
def Obligations.DecodeOfEncodeIsTheOperation : Prop := ∀ i : Instr, i.wf = true → decode (encode i) = .op i

/-- A word that decodes to an operation is that operation's word, and the operation is well formed. -/
def Obligations.EncodeOfDecodeIsTheWord : Prop :=
  ∀ (w : OpWord) (i : Instr), decode w = .op i → encode i = w ∧ i.wf = true

/-- R55: the decode function and the match and mask pairs are the same map. A word decodes to an operation of a row exactly
when it matches the row, and no word matches two rows. -/
def Obligations.OpcodeMapMatchesTheDecoder : Prop :=
  (∀ w : OpWord, ∀ r ∈ opcodeTable, r.accepts w ↔ ∃ i, decode w = .op i ∧ mnemonicOf i = r.mnemonic) ∧
  ∀ w : OpWord, ∀ r ∈ opcodeTable, ∀ r' ∈ opcodeTable, r.accepts w → r'.accepts w → r = r'

/-- R56: exactly the listed words are refused. -/
def Obligations.ExactlyTheListedWordsAreRefused : Prop :=
  ∀ w : OpWord, (∃ why, decode w = .refused why) ↔
    wordCls w = 0b11#2 ∨
    (wordCls w = 0b00#2 ∧ wordAddr w ≠ 0#4) ∨
    (wordCls w = 0b00#2 ∧ wordSub w ≠ 0b10#2 ∧ wordData w ≠ 0#16) ∨
    (wordCls w = 0b01#2 ∧ (wordSub w ≠ 0#2 ∨ wordData w ≠ 0#16)) ∨
    (wordCls w = 0b10#2 ∧ wordSub w ≠ 0#2)

/-- R53: how the operands are taken from the word. -/
def Obligations.OperandsAreTakenFromTheirFields : Prop :=
  ∀ w : OpWord,
    (∀ k, decode w = .op (.rdCh k) → k.val = (w.extractLsb' 16 3).toNat ∧ w.getLsbD 19 = false) ∧
    (∀ e, decode w = .op (.edgeE e) → e = w.extractLsb' 0 16) ∧
    (∀ a, decode w = .op (.rdRsvdCf a) → a = w.extractLsb' 16 4) ∧
    (∀ a v, decode w = .op (.wrRoCh a v) ∨ decode w = .op (.wrRoGs a v) ∨ decode w = .op (.wrRsvdCf a v) →
      a = w.extractLsb' 16 4 ∧ v = w.extractLsb' 0 16) ∧
    (∀ v, decode w = .op (.wrRsvdB v) → w.extractLsb' 16 4 = 0xB#4 ∧ v = w.extractLsb' 0 16) ∧
    (∀ v, decode w = .op (.release v) → w.extractLsb' 16 4 = 0xA#4 ∧ v = w.extractLsb' 0 16 ∧ v.getLsbD 0 = true) ∧
    (∀ v, decode w = .op (.wrCtrlNop v) → w.extractLsb' 16 4 = 0xA#4 ∧ v = w.extractLsb' 0 16 ∧ v.getLsbD 0 = false)

/-- Words written out from 95_test_vectors.md 2.4, and what they stand for. -/
def Obligations.WrittenOutWordsDecode : Prop :=
  decode 0x20FFFF#24 = .op (.edgeE 65535#16) ∧ decode 0x470000#24 = .op (.rdCh 7) ∧
  decode 0x4F0000#24 = .op (.rdRsvdCf 0xF#4) ∧ decode 0x890005#24 = .op (.wrRoGs 0x9#4 5#16) ∧
  decode 0x8A0003#24 = .op (.release 3#16) ∧ decode 0x8AFFFE#24 = .op (.wrCtrlNop 0xFFFE#16) ∧
  decode 0x8B1234#24 = .op (.wrRsvdB 0x1234#16) ∧ decode 0x300000#24 = .op .reset ∧
  decode 0x010000#24 = .refused .evtMbz ∧ decode 0x100001#24 = .refused .evtOperand ∧
  decode 0x500000#24 = .refused .rdMbz ∧ decode 0xC00000#24 = .refused .reservedClass

/-! ### Steps -/

/-- A step whose stimulus is a word that decodes to `i` is `exec i`, on the state without that stimulus and with `rdata`
not driven. The list of stimuli (log 1) and `rdata` at 0 in a step that reads nothing (log 3) are the model's choices. -/
def Obligations.StepRunsTheDecodedOperation : Prop :=
  ∀ (s : State) (w : OpWord) (rest : List Stimulus) (i : Instr), s.inputs = .word w :: rest → decode w = .op i →
    step s = exec i { s with inputs := rest, rdata := 0#16 }

/-- R99: a step never faults, and is refused exactly when its stimulus is a word that spells no operation. -/
def Obligations.StepIsRefusedOnlyOnWordsThatSpellNothing : Prop :=
  ∀ s : State, (∀ f, step s ≠ .fault f) ∧
    ∀ r, step s = .refused r ↔
      ∃ w rest why, s.inputs = .word w :: rest ∧ decode w = .refused why ∧ r = .refusedWord why

/-! ### The register map -/

/-- R33, R35, R37: what each address reads and what a write to it does; every RD word returns the first and every WR word
does the second, at each of the 16 addresses, and none faults. -/
def Obligations.RegisterMapReadsAndWrites : Prop :=
  ∀ s : State,
    (∀ k : Fin 8, s.readReg (BitVec.ofNat 4 k.val) = s.buf[k.val]) ∧ s.readReg 0x8#4 = s.buf[8] ∧
    s.readReg 0x9#4 = statusWord s.idx s.ready ∧ s.readReg 0xA#4 = 0#16 ∧
    (∀ a : Addr, 0xB ≤ a.toNat → s.readReg a = 0#16) ∧
    ∀ (a : Addr) (v : Half),
      s.writeReg a v = (if a = 0xA#4 ∧ v.getLsbD 0 = true then { s with ready := false, idx := .unsync } else s) ∧
      runWords [0b0100#4 ++ a ++ 0#16] s = .next { s with rdata := s.readReg a } ∧
      runWords [0b1000#4 ++ a ++ v] s = .next (s.writeReg a v)

/-! ### The cycle level -/

/-- R61: one clock cycle is the run of its operation words (`cycleWords`), in the order of R101, then the shift of the
sampler (R103); no port combination gives an EDGE_E word or a refused one. The words run with `rdata` at 0 to begin with
(R31); that State holds `rdata` so is log 3, the model's reading. -/
def Obligations.CycleIsTheRunOfItsWords : Prop :=
  ∀ (p : PortIn) (s : State), ∃ t, runWords (cycleWords p s.rise) s.undriven = .next t ∧
    cycle p s = (if p.rst then t else { t with prev := s.s2, s2 := s.s1, s1 := p.ppmIn }) ∧
    ∀ w ∈ cycleWords p s.rise, (∃ i, decode w = .op i) ∧ ∀ e, decode w ≠ .op (.edgeE e)

/-- R31, R101: `rdata` is the register as it was at the start of the cycle, in a cycle that reads, and 0 in every other. That
State holds `rdata` until the next step is log 3, the model's reading. -/
def Obligations.CycleReadReturnsTheStartOfTheCycle : Prop :=
  ∀ (p : PortIn) (s : State),
    (cycle p s).rdata = if p.rst = false ∧ p.req = true ∧ p.we = false then s.readReg p.addr else 0#16

/-- R101: a RELEASE and an edge in the same cycle: the edge sees `ready = 0` and `idx = UNSYNC`, and the cycle's tick is
counted in the interval that ends at it. `rdata` at 0 in the state is R31 as log 3 holds it. -/
def Obligations.SameCycleReleaseComesBeforeTheEdge : Prop :=
  ∀ (p : PortIn) (s : State), p.rst = false → p.req = true → p.we = true → p.addr = 0xA#4 → p.wdata.getLsbD 0 = true →
    s.s2 = true → s.prev = false →
    cycle p s =
      { s with
        ready := false
        idx := if 2500 < (s.cnt.toNat + if p.tickEn then 1 else 0) % 2 ^ 16 / 2 then .inFrame 0 else .unsync
        cnt := 0#16, rdata := 0#16, prev := true, s2 := s.s1, s1 := p.ppmIn }

/-- R103 and R79: in a cycle without reset, EDGE is performed, after the host access and the tick, exactly when `s2 = 1`
and `prev = 0` at its start; and the sampler shifts. The words run with `rdata` at 0 to begin with (R31, log 3). -/
def Obligations.CycleTakesAnEdgeExactlyOnARise : Prop :=
  ∀ (p : PortIn) (s : State), p.rst = false →
    ∃ t, runWords (hostWords p ++ if p.tickEn then [0x000000#24] else []) { s with rdata := 0#16 } = .next t ∧
      ((s.s2 = true ∧ s.prev = false) → ∃ u, exec .edge t = .next u ∧
        cycle p s = { u with prev := s.s2, s2 := s.s1, s1 := p.ppmIn }) ∧
      (¬(s.s2 = true ∧ s.prev = false) → cycle p s = { t with prev := s.s2, s2 := s.s1, s1 := p.ppmIn })

/-- R123: an edge acts in the second cycle after the one that first samples the high level, and only a 0 sample followed
by a 1 sample makes one. -/
def Obligations.EdgeActsTwoCyclesAfterItsSample : Prop :=
  ∀ (pa pb pc : PortIn) (s : State), pa.rst = false → pb.rst = false → pc.rst = false →
    (runCycles [pa, pb, pc] s).rise = (pb.ppmIn && !pa.ppmIn)

/-- R24, R104: after RESET, an input that stays high is not taken for a rising edge, for any number of cycles. -/
def Obligations.HighInputAfterResetIsNoEdge : Prop :=
  ∀ (s t : State) (ps : List PortIn), exec .reset s = .next t → (∀ p ∈ ps, p.rst = false ∧ p.ppmIn = true) →
    (runCycles ps t).rise = false

/-- R26, R101: while `ready = 1`, a cycle that neither resets nor writes CTRL with bit 0 set changes no entry, nor
`ready`, nor `idx`. -/
def Obligations.ReadyProtectsTheFrameInEveryCycle : Prop :=
  ∀ (p : PortIn) (s : State), s.ready = true → portsReleaseOrReset p = false →
    (cycle p s).buf = s.buf ∧ (cycle p s).ready = true ∧ (cycle p s).idx = s.idx

/-! ### Assembler and pseudo-operations -/

/-- R59: each line of assembler is the word of its operation. -/
def Obligations.AssemblerLinesAreTheirOperations : Prop :=
  AsmLine.tick.words = [encode .tick] ∧ AsmLine.edge.words = [encode .edge] ∧
  (∀ e, (AsmLine.edgeE e).words = [encode (.edgeE e)]) ∧ AsmLine.reset.words = [encode .reset] ∧
  (∀ k, (AsmLine.rdCh k).words = [encode (.rdCh k)]) ∧ AsmLine.rdGap.words = [encode .rdGap] ∧
  AsmLine.rdStatus.words = [encode .rdStatus] ∧ AsmLine.rdCtrl.words = [encode .rdCtrl] ∧
  (AsmLine.rdAt 0xB#4).words = [encode .rdRsvdB] ∧
  (∀ a : Addr, 0xC ≤ a.toNat → (AsmLine.rdAt a).words = [encode (.rdRsvdCf a)]) ∧
  (∀ k v, (AsmLine.wrCh k v).words = [encode (.wrRoCh (BitVec.ofNat 4 k.val) v)]) ∧
  (∀ v, (AsmLine.wrGap v).words = [encode (.wrRoGs 0x8#4 v)] ∧ (AsmLine.wrStatus v).words = [encode (.wrRoGs 0x9#4 v)]) ∧
  (∀ v, (AsmLine.wrCtrl v).words = [encode (if v.getLsbD 0 then .release v else .wrCtrlNop v)]) ∧
  (∀ v, (AsmLine.wrAt 0xB#4 v).words = [encode (.wrRsvdB v)]) ∧
  ∀ (a : Addr) (v), 0xC ≤ a.toNat → (AsmLine.wrAt a v).words = [encode (.wrRsvdCf a v)]

/-- R60: the expansions of the pseudo-operations, and that `INTERVAL #u` measures `u` exactly when `cnt = 0` before it and
`2u < 2^16`. -/
def Obligations.PseudoOperationsExpand : Prop :=
  AsmLine.release.words = [encode (.release 1#16)] ∧ AsmLine.poll.words = [encode .rdStatus] ∧
  (∀ n, (AsmLine.ticks n).words = List.replicate n (encode .tick)) ∧
  (∀ u, (AsmLine.interval u).words = (AsmLine.ticks (2 * u)).words ++ [encode .edge]) ∧
  (∀ a g, (AsmLine.frameE a g).words = (a.push g).toList.map fun e => encode (.edgeE e)) ∧
  AsmLine.report.words =
    [encode (.rdCh 0), encode (.rdCh 1), encode (.rdCh 2), encode (.rdCh 3), encode (.rdCh 4), encode (.rdCh 5),
      encode (.rdCh 6), encode (.rdCh 7), encode .rdGap, encode (.release 1#16)] ∧
  ∀ (u : Nat) (s : State), s.cnt = 0#16 → 2 * u < 2 ^ 16 →
    runWords (AsmLine.interval u).words s = exec (.edgeE (BitVec.ofNat 16 u)) s

/-! ### The Reporter and the platform -/

/-- R94: a polling Reporter reads STATUS, and drains next exactly when `ready` was 1; the block does not change but
for `rdata` (log 3). The Reporter as part of the state, moved by stimuli of its own, is the model's choice (logs 1, 7). -/
def Obligations.ReporterPollsUntilReady : Prop :=
  ∀ (s : State) (rest : List Stimulus), s.inputs = .reporter :: rest → s.reporter.phase = .polling →
    step s = .next
      { s with
        inputs := rest
        rdata := statusWord s.idx s.ready
        reporter := if s.ready then { s.reporter with phase := .draining [] } else s.reporter }

/-- R95, R96: from `ready = 1`, eleven moves of a polling Reporter (STATUS, CH1 to CH8, GAP, RELEASE) report the nine
entries in order and release the block. The model's choices in it: the moves come as stimuli (log 1) of a Reporter that is
part of the state (log 7); the report is recorded at the ninth read (log 11); `rdata` is 0 after the RELEASE (log 3); and
the pause that begins there has the open length `Config.reporterPauseMs` (log 6). -/
def Obligations.ReporterDrainsThenReleases : Prop :=
  ∀ (s : State) (rest : List Stimulus), s.ready = true → s.reporter.phase = .polling →
    Host.Core.run core 11 { s with inputs := List.replicate 11 .reporter ++ rest } = .next
      { s with
        inputs := rest
        ready := false
        idx := .unsync
        rdata := 0#16
        reporter := ⟨.pausing Config.reporterPauseMs, s.reporter.reports ++ [s.buf.toList]⟩ }

/-- R44, R95, R98: as long as nobody but the Reporter releases or resets the block, whatever edges, ticks and accesses fall
between its moves, every step keeps this: what it has drained is the buffer's beginning, and what it reports is the whole
buffer. The model's choices in it: the Reporter is part of the state (log 7), and a report is recorded at the ninth read,
before the RELEASE, so while `ready = 1` and before the phase `releasing` (log 11). -/
def Obligations.ReporterReportsTheFrameItWasShown : Prop :=
  ∀ (s t : State), ReporterInv s → (∀ x ∈ s.inputs.head?, foreignRelease x = false) → step s = .next t →
    ReporterInv t ∧ (t.reporter.reports = s.reporter.reports ∨
      (s.ready = true ∧ t.reporter.reports = s.reporter.reports ++ [s.buf.toList]))

/-- R97: the pause lasts at least 2000 ms, and a pausing Reporter performs no block operation; its length is the free value
of log 6, and this holds for every length. That the Reporter is part of the state is log 7, that its wall clock passes by
stimuli of its own log 15. -/
def Obligations.ReporterPausesAtLeastTwoSeconds : Prop :=
  2000 ≤ Config.reporterPauseMs ∧
  ∀ (s : State) (left : Nat), s.reporter.phase = .pausing left →
    reporterMove s = .next s ∧
    ∀ ms : Nat, reporterWait ms s =
      { s with reporter := { s.reporter with phase := if left ≤ ms then .polling else .pausing (left - ms) } }

/-- R95, D24: the total is the sum of the nine values, and "the nine 16-bit values need at most 20 bits". -/
def Obligations.ReportTotalNeedsTwentyBits : Prop :=
  ∀ v : Vector Half 9,
    reportTotal v.toList = (v[0]).toNat + (v[1]).toNat + (v[2]).toNat + (v[3]).toNat + (v[4]).toNat + (v[5]).toNat
      + (v[6]).toNat + (v[7]).toNat + (v[8]).toNat ∧
    reportTotal v.toList < 2 ^ 20

/-- R38, R41: the 16 locations are the host addresses from `BASE_ADDR` on, register `a` at offset `a`, and no others; which
byte of a register a byte-addressed bus holds first, in either byte order, and that the two bytes give it back. The
platform's view, its base counted in word addresses, is the model's choice (log 5), and `BASE_ADDR` is open. -/
def Obligations.PlatformViewsLoseNothing : Prop :=
  (∀ a : Addr, hostAddr a = Config.baseAddr + a.toNat) ∧
  (∀ (n : Nat) (a : Addr), blockAddr n = some a ↔ n = Config.baseAddr + a.toNat) ∧
  (∀ n : Nat, blockAddr n = none ↔ n < Config.baseAddr ∨ Config.baseAddr + 16 ≤ n) ∧
  ∀ v : Half,
    ((busBytes .lowFirst v).1.toNat = v.toNat % 256 ∧ (busBytes .lowFirst v).2.toNat = v.toNat / 256) ∧
    ((busBytes .highFirst v).1.toNat = v.toNat / 256 ∧ (busBytes .highFirst v).2.toNat = v.toNat % 256) ∧
    ∀ order : Config.ByteOrder, ofBusBytes order (busBytes order v) = v
end

