-- ==== Sys2Proof/Laws/DecodeLaws.lean ====
section
/-! SUPPORT. The fields of a word, and a word put together from its fields. -/

namespace Sys2Proof

/-- The word with these four fields (30_encoding.md R49). -/
def wordOf (cls sub : BitVec 2) (a : Addr) (d : Half) : OpWord := cls ++ sub ++ a ++ d

theorem evtWord_eq (ev : BitVec 2) (e : Half) : evtWord ev e = wordOf 0b00#2 ev 0#4 e := rfl
theorem rdWord_eq (a : Addr) : rdWord a = wordOf 0b01#2 0#2 a 0#16 := rfl
theorem wrWord_eq (a : Addr) (v : Half) : wrWord a v = wordOf 0b10#2 0#2 a v := rfl

variable (cls sub : BitVec 2) (a : Addr) (d : Half)

theorem wordOf_toNat : (wordOf cls sub a d).toNat =
    cls.toNat * 2 ^ 22 + sub.toNat * 2 ^ 20 + a.toNat * 2 ^ 16 + d.toNat := by
  have := sub.isLt
  have := a.isLt
  have := d.isLt
  rw [wordOf, BitVec.toNat_append, ← Nat.shiftLeft_add_eq_or_of_lt d.isLt, BitVec.toNat_append,
    ← Nat.shiftLeft_add_eq_or_of_lt a.isLt, BitVec.toNat_append, ← Nat.shiftLeft_add_eq_or_of_lt sub.isLt]
  simp only [Nat.shiftLeft_eq]
  omega

@[simp] theorem wordCls_wordOf : wordCls (wordOf cls sub a d) = cls := by
  apply BitVec.eq_of_toNat_eq
  have := cls.isLt
  have := sub.isLt
  have := a.isLt
  have := d.isLt
  simp only [wordCls, BitVec.extractLsb'_toNat, wordOf_toNat, Nat.shiftRight_eq_div_pow]
  omega

@[simp] theorem wordSub_wordOf : wordSub (wordOf cls sub a d) = sub := by
  apply BitVec.eq_of_toNat_eq
  have := sub.isLt
  have := a.isLt
  have := d.isLt
  simp only [wordSub, BitVec.extractLsb'_toNat, wordOf_toNat, Nat.shiftRight_eq_div_pow]
  omega

@[simp] theorem wordAddr_wordOf : wordAddr (wordOf cls sub a d) = a := by
  apply BitVec.eq_of_toNat_eq
  have := a.isLt
  have := d.isLt
  simp only [wordAddr, BitVec.extractLsb'_toNat, wordOf_toNat, Nat.shiftRight_eq_div_pow]
  omega

@[simp] theorem wordData_wordOf : wordData (wordOf cls sub a d) = d := by
  apply BitVec.eq_of_toNat_eq
  have := d.isLt
  simp only [wordData, BitVec.extractLsb'_toNat, wordOf_toNat, Nat.shiftRight_eq_div_pow]
  omega

/-- A word is its four fields. -/
theorem wordOf_fields (w : OpWord) : wordOf (wordCls w) (wordSub w) (wordAddr w) (wordData w) = w := by
  apply BitVec.eq_of_toNat_eq
  have := w.isLt
  simp only [wordOf_toNat, wordCls, wordSub, wordAddr, wordData, BitVec.extractLsb'_toNat, Nat.shiftRight_eq_div_pow]
  omega

theorem wordCls_and (u w : OpWord) : wordCls (u &&& w) = wordCls u &&& wordCls w := BitVec.extractLsb'_and
theorem wordSub_and (u w : OpWord) : wordSub (u &&& w) = wordSub u &&& wordSub w := BitVec.extractLsb'_and
theorem wordAddr_and (u w : OpWord) : wordAddr (u &&& w) = wordAddr u &&& wordAddr w := BitVec.extractLsb'_and
theorem wordData_and (u w : OpWord) : wordData (u &&& w) = wordData u &&& wordData w := BitVec.extractLsb'_and

/-- Masking a word masks its fields. -/
theorem wordOf_and (mcls msub : BitVec 2) (ma : Addr) (md : Half) :
    wordOf cls sub a d &&& wordOf mcls msub ma md = wordOf (cls &&& mcls) (sub &&& msub) (a &&& ma) (d &&& md) := by
  rw [← wordOf_fields (wordOf cls sub a d &&& wordOf mcls msub ma md)]
  simp only [wordCls_and, wordSub_and, wordAddr_and, wordData_and, wordCls_wordOf, wordSub_wordOf, wordAddr_wordOf,
    wordData_wordOf]

/-- Two words are equal exactly when their fields are. -/
theorem wordOf_inj {cls' sub' : BitVec 2} {a' : Addr} {d' : Half} :
    wordOf cls sub a d = wordOf cls' sub' a' d' ↔ cls = cls' ∧ sub = sub' ∧ a = a' ∧ d = d' := by
  refine ⟨fun h => ⟨?_, ?_, ?_, ?_⟩, fun ⟨h1, h2, h3, h4⟩ => by rw [h1, h2, h3, h4]⟩
  · simpa using congrArg wordCls h
  · simpa using congrArg wordSub h
  · simpa using congrArg wordAddr h
  · simpa using congrArg wordData h

/-! ### Decoding by class -/

theorem decode_evt : decode (wordOf 0b00#2 sub a d) = decodeEvt sub a d := by simp [decode]
theorem decode_rd : decode (wordOf 0b01#2 sub a d) = decodeRd sub a d := by simp [decode]
theorem decode_wr : decode (wordOf 0b10#2 sub a d) = decodeWr sub a d := by simp [decode]
theorem decode_reserved : decode (wordOf 0b11#2 sub a d) = .refused .reservedClass := by simp [decode]

/-- The word of any host read decodes to a read; which one, the address says. -/
theorem decode_rdWord : decode (rdWord a) = decodeRd 0#2 a 0#16 := by rw [rdWord_eq, decode_rd]

/-- The word of any host write decodes to a write; which one, the address and bit 0 of the data say. -/
theorem decode_wrWord : decode (wrWord a d) = decodeWr 0#2 a d := by rw [wrWord_eq, decode_wr]

end Sys2Proof
end

