-- ==== Sys2Proof/Laws/State.lean ====
section
/-! SUPPORT. What each update of the state does to each field: one lemma per field per update. -/

namespace Sys2Proof.Machine

variable (s : State)

/-! ### `buf[k] <- v` -/

@[simp] theorem writeBuf_buf (k : Fin 9) (v : Half) : (s.writeBuf k v).buf = s.buf.set k v := rfl
@[simp] theorem writeBuf_ready (k : Fin 9) (v : Half) : (s.writeBuf k v).ready = s.ready := rfl
@[simp] theorem writeBuf_idx (k : Fin 9) (v : Half) : (s.writeBuf k v).idx = s.idx := rfl
@[simp] theorem writeBuf_cnt (k : Fin 9) (v : Half) : (s.writeBuf k v).cnt = s.cnt := rfl
@[simp] theorem writeBuf_s1 (k : Fin 9) (v : Half) : (s.writeBuf k v).s1 = s.s1 := rfl
@[simp] theorem writeBuf_s2 (k : Fin 9) (v : Half) : (s.writeBuf k v).s2 = s.s2 := rfl
@[simp] theorem writeBuf_prev (k : Fin 9) (v : Half) : (s.writeBuf k v).prev = s.prev := rfl
@[simp] theorem writeBuf_rdata (k : Fin 9) (v : Half) : (s.writeBuf k v).rdata = s.rdata := rfl
@[simp] theorem writeBuf_inputs (k : Fin 9) (v : Half) : (s.writeBuf k v).inputs = s.inputs := rfl
@[simp] theorem writeBuf_reporter (k : Fin 9) (v : Half) : (s.writeBuf k v).reporter = s.reporter := rfl

/-! ### `rdata <- v` -/

@[simp] theorem driveRdata_buf (v : Half) : (s.driveRdata v).buf = s.buf := rfl
@[simp] theorem driveRdata_ready (v : Half) : (s.driveRdata v).ready = s.ready := rfl
@[simp] theorem driveRdata_idx (v : Half) : (s.driveRdata v).idx = s.idx := rfl
@[simp] theorem driveRdata_cnt (v : Half) : (s.driveRdata v).cnt = s.cnt := rfl
@[simp] theorem driveRdata_s1 (v : Half) : (s.driveRdata v).s1 = s.s1 := rfl
@[simp] theorem driveRdata_s2 (v : Half) : (s.driveRdata v).s2 = s.s2 := rfl
@[simp] theorem driveRdata_prev (v : Half) : (s.driveRdata v).prev = s.prev := rfl
@[simp] theorem driveRdata_rdata (v : Half) : (s.driveRdata v).rdata = v := rfl
@[simp] theorem driveRdata_inputs (v : Half) : (s.driveRdata v).inputs = s.inputs := rfl
@[simp] theorem driveRdata_reporter (v : Half) : (s.driveRdata v).reporter = s.reporter := rfl

/-! ### `rdata` not driven -/

@[simp] theorem undriven_buf : (s.undriven).buf = s.buf := rfl
@[simp] theorem undriven_ready : (s.undriven).ready = s.ready := rfl
@[simp] theorem undriven_idx : (s.undriven).idx = s.idx := rfl
@[simp] theorem undriven_cnt : (s.undriven).cnt = s.cnt := rfl
@[simp] theorem undriven_s1 : (s.undriven).s1 = s.s1 := rfl
@[simp] theorem undriven_s2 : (s.undriven).s2 = s.s2 := rfl
@[simp] theorem undriven_prev : (s.undriven).prev = s.prev := rfl
@[simp] theorem undriven_rdata : (s.undriven).rdata = 0#16 := rfl
@[simp] theorem undriven_inputs : (s.undriven).inputs = s.inputs := rfl
@[simp] theorem undriven_reporter : (s.undriven).reporter = s.reporter := rfl

/-! ### TICK -/

@[simp] theorem tick_buf : (s.tick).buf = s.buf := rfl
@[simp] theorem tick_ready : (s.tick).ready = s.ready := rfl
@[simp] theorem tick_idx : (s.tick).idx = s.idx := rfl
@[simp] theorem tick_cnt : (s.tick).cnt = s.cnt + 1#16 := rfl
@[simp] theorem tick_s1 : (s.tick).s1 = s.s1 := rfl
@[simp] theorem tick_s2 : (s.tick).s2 = s.s2 := rfl
@[simp] theorem tick_prev : (s.tick).prev = s.prev := rfl
@[simp] theorem tick_rdata : (s.tick).rdata = s.rdata := rfl
@[simp] theorem tick_inputs : (s.tick).inputs = s.inputs := rfl
@[simp] theorem tick_reporter : (s.tick).reporter = s.reporter := rfl

/-! ### SYNC-ACQUIRE -/

@[simp] theorem syncAcquire_buf : (s.syncAcquire).buf = s.buf := rfl
@[simp] theorem syncAcquire_ready : (s.syncAcquire).ready = s.ready := rfl
@[simp] theorem syncAcquire_idx : (s.syncAcquire).idx = .inFrame 0 := rfl
@[simp] theorem syncAcquire_cnt : (s.syncAcquire).cnt = s.cnt := rfl
@[simp] theorem syncAcquire_s1 : (s.syncAcquire).s1 = s.s1 := rfl
@[simp] theorem syncAcquire_s2 : (s.syncAcquire).s2 = s.s2 := rfl
@[simp] theorem syncAcquire_prev : (s.syncAcquire).prev = s.prev := rfl
@[simp] theorem syncAcquire_rdata : (s.syncAcquire).rdata = s.rdata := rfl
@[simp] theorem syncAcquire_inputs : (s.syncAcquire).inputs = s.inputs := rfl
@[simp] theorem syncAcquire_reporter : (s.syncAcquire).reporter = s.reporter := rfl

/-! ### FRAME-END -/

@[simp] theorem frameEnd_buf (e : Half) : (s.frameEnd e).buf = s.buf.set 8 e := rfl
@[simp] theorem frameEnd_ready (e : Half) : (s.frameEnd e).ready = true := rfl
@[simp] theorem frameEnd_idx (e : Half) : (s.frameEnd e).idx = .inFrame 0 := rfl
@[simp] theorem frameEnd_cnt (e : Half) : (s.frameEnd e).cnt = s.cnt := rfl
@[simp] theorem frameEnd_s1 (e : Half) : (s.frameEnd e).s1 = s.s1 := rfl
@[simp] theorem frameEnd_s2 (e : Half) : (s.frameEnd e).s2 = s.s2 := rfl
@[simp] theorem frameEnd_prev (e : Half) : (s.frameEnd e).prev = s.prev := rfl
@[simp] theorem frameEnd_rdata (e : Half) : (s.frameEnd e).rdata = s.rdata := rfl
@[simp] theorem frameEnd_inputs (e : Half) : (s.frameEnd e).inputs = s.inputs := rfl
@[simp] theorem frameEnd_reporter (e : Half) : (s.frameEnd e).reporter = s.reporter := rfl

/-! ### RELEASE -/

@[simp] theorem release_buf : (s.release).buf = s.buf := rfl
@[simp] theorem release_ready : (s.release).ready = false := rfl
@[simp] theorem release_idx : (s.release).idx = .unsync := rfl
@[simp] theorem release_cnt : (s.release).cnt = s.cnt := rfl
@[simp] theorem release_s1 : (s.release).s1 = s.s1 := rfl
@[simp] theorem release_s2 : (s.release).s2 = s.s2 := rfl
@[simp] theorem release_prev : (s.release).prev = s.prev := rfl
@[simp] theorem release_rdata : (s.release).rdata = s.rdata := rfl
@[simp] theorem release_inputs : (s.release).inputs = s.inputs := rfl
@[simp] theorem release_reporter : (s.release).reporter = s.reporter := rfl

/-! ### RESET -/

@[simp] theorem resetBlock_buf : (s.resetBlock).buf = Vector.replicate 9 0#16 := rfl
@[simp] theorem resetBlock_ready : (s.resetBlock).ready = false := rfl
@[simp] theorem resetBlock_idx : (s.resetBlock).idx = .unsync := rfl
@[simp] theorem resetBlock_cnt : (s.resetBlock).cnt = 0#16 := rfl
@[simp] theorem resetBlock_s1 : (s.resetBlock).s1 = true := rfl
@[simp] theorem resetBlock_s2 : (s.resetBlock).s2 = true := rfl
@[simp] theorem resetBlock_prev : (s.resetBlock).prev = true := rfl
@[simp] theorem resetBlock_rdata : (s.resetBlock).rdata = 0#16 := rfl
@[simp] theorem resetBlock_inputs : (s.resetBlock).inputs = s.inputs := rfl
@[simp] theorem resetBlock_reporter : (s.resetBlock).reporter = s.reporter := rfl

/-! ### the end of a cycle -/

@[simp] theorem shiftSampler_buf (b : Bool) : (s.shiftSampler b).buf = s.buf := rfl
@[simp] theorem shiftSampler_ready (b : Bool) : (s.shiftSampler b).ready = s.ready := rfl
@[simp] theorem shiftSampler_idx (b : Bool) : (s.shiftSampler b).idx = s.idx := rfl
@[simp] theorem shiftSampler_cnt (b : Bool) : (s.shiftSampler b).cnt = s.cnt := rfl
@[simp] theorem shiftSampler_s1 (b : Bool) : (s.shiftSampler b).s1 = b := rfl
@[simp] theorem shiftSampler_s2 (b : Bool) : (s.shiftSampler b).s2 = s.s1 := rfl
@[simp] theorem shiftSampler_prev (b : Bool) : (s.shiftSampler b).prev = s.s2 := rfl
@[simp] theorem shiftSampler_rdata (b : Bool) : (s.shiftSampler b).rdata = s.rdata := rfl
@[simp] theorem shiftSampler_inputs (b : Bool) : (s.shiftSampler b).inputs = s.inputs := rfl
@[simp] theorem shiftSampler_reporter (b : Bool) : (s.shiftSampler b).reporter = s.reporter := rfl

/-! ### Reading an entry after writing one -/

theorem readBuf_eq (k : Fin 9) : s.readBuf k = s.buf[k] := rfl

@[simp] theorem readBuf_writeBuf_self (k : Fin 9) (v : Half) : (s.writeBuf k v).readBuf k = v := by
  simp [State.readBuf, State.writeBuf]

theorem readBuf_writeBuf_of_ne (k j : Fin 9) (v : Half) (h : k ≠ j) : (s.writeBuf k v).readBuf j = s.readBuf j := by
  have : k.val ≠ j.val := fun e => h (Fin.ext e)
  simp [State.readBuf, State.writeBuf, this]

@[simp] theorem readBuf_resetBlock (k : Fin 9) : s.resetBlock.readBuf k = 0#16 := by
  simp [State.readBuf]

end Sys2Proof.Machine
end

