-- ==== Sys2Proof/Laws/Decoder.lean ====
section
/-! SUPPORT. Everything the Frame Decoder and the Edge Timer's read-and-reset can do. -/

namespace Sys2Proof.Machine

theorem isSyncGap_iff (e : Half) : isSyncGap e = true ↔ 2500 < e.toNat := by
  unfold isSyncGap
  exact decide_eq_true_iff

theorem isSyncGap_false_iff (e : Half) : isSyncGap e = false ↔ e.toNat ≤ 2500 := by
  rw [← Nat.not_lt, ← isSyncGap_iff, Bool.not_eq_true]

theorem usOfTicks_toNat (c : Half) : (usOfTicks c).toNat = c.toNat / 2 := by
  have := c.isLt
  simp only [usOfTicks, Config.ticksPerUs, BitVec.toNat_ofNat]
  omega

theorem usOfTicks_le (c : Half) : (usOfTicks c).toNat ≤ 32767 := by
  have := c.isLt
  rw [usOfTicks_toNat]
  omega

/-! ### Each case as an equation (41_frame_decoder.md R70 to R76) -/

variable {s : State} {e : Half}

theorem decodeEdge_ready (h : s.ready = true) : s.decodeEdge e = s := by simp [State.decodeEdge, h]

theorem decodeEdge_sync_unsync (hr : s.ready = false) (hi : s.idx = .unsync) (he : 2500 < e.toNat) :
    s.decodeEdge e = s.syncAcquire := by simp [State.decodeEdge, hr, hi, (isSyncGap_iff e).2 he]

theorem decodeEdge_sync_inFrame {i : Fin 9} (hr : s.ready = false) (hi : s.idx = .inFrame i) (he : 2500 < e.toNat) :
    s.decodeEdge e = s.frameEnd e := by simp [State.decodeEdge, hr, hi, (isSyncGap_iff e).2 he]

theorem decodeEdge_pulse_unsync (hr : s.ready = false) (hi : s.idx = .unsync) (he : e.toNat ≤ 2500) :
    s.decodeEdge e = s := by simp [State.decodeEdge, hr, hi, (isSyncGap_false_iff e).2 he]

theorem decodeEdge_pulse_inFrame {i : Fin 9} (hr : s.ready = false) (hi : s.idx = .inFrame i) (he : e.toNat ≤ 2500) :
    s.decodeEdge e = s.channelPulse i e := by simp [State.decodeEdge, hr, hi, (isSyncGap_false_iff e).2 he]

theorem channelPulse_lt (i : Fin 9) (h : i.val < 8) :
    s.channelPulse i e = { s.writeBuf i e with idx := .inFrame ⟨i.val + 1, Nat.succ_lt_succ h⟩ } := by
  simp [State.channelPulse, h]

theorem channelPulse_last : s.channelPulse 8 e = s := by simp [State.channelPulse]

/-- Everything `Decode(e)` can do: the state unchanged (DROP, WAIT-SYNC, OVERFLOW-CHANNEL), SYNC-ACQUIRE, FRAME-END, or
CHANNEL, each with the conditions under which it happens. -/
theorem decodeEdge_cases (e : Half) (s : State) :
    (s.decodeEdge e = s ∧
      (s.ready = true ∨ (e.toNat ≤ 2500 ∧ (s.idx = .unsync ∨ s.idx = .inFrame 8)))) ∨
    (s.decodeEdge e = s.syncAcquire ∧ s.ready = false ∧ s.idx = .unsync ∧ 2500 < e.toNat) ∨
    (s.decodeEdge e = s.frameEnd e ∧ s.ready = false ∧ (∃ i, s.idx = .inFrame i) ∧ 2500 < e.toNat) ∨
    (∃ i : Fin 8, s.decodeEdge e = { s.writeBuf i.castSucc e with idx := .inFrame i.succ } ∧
      s.ready = false ∧ s.idx = .inFrame i.castSucc ∧ e.toNat ≤ 2500) := by
  rcases hr : s.ready with _ | _
  · rcases Nat.lt_or_ge 2500 e.toNat with he | he
    · cases hi : s.idx with
      | unsync => exact .inr (.inl ⟨decodeEdge_sync_unsync hr hi he, rfl, rfl, he⟩)
      | inFrame i => exact .inr (.inr (.inl ⟨decodeEdge_sync_inFrame hr hi he, rfl, ⟨i, rfl⟩, he⟩))
    · cases hi : s.idx with
      | unsync => exact .inl ⟨decodeEdge_pulse_unsync hr hi he, .inr ⟨he, .inl rfl⟩⟩
      | inFrame i =>
        by_cases h8 : i.val < 8
        · refine .inr (.inr (.inr ⟨⟨i.val, h8⟩, ?_, rfl, rfl, he⟩))
          rw [decodeEdge_pulse_inFrame hr hi he, channelPulse_lt i h8]
          rfl
        · have hi8 : i = 8 := Fin.ext (by have := i.isLt; simp; omega)
          subst hi8
          exact .inl ⟨by rw [decodeEdge_pulse_inFrame hr hi he, channelPulse_last], .inr ⟨he, .inr rfl⟩⟩
  · exact .inl ⟨decodeEdge_ready hr, .inl rfl⟩

/-! ### What `Decode(e)` and EDGE leave alone -/

@[simp] theorem decodeEdge_cnt (e : Half) (s : State) : (s.decodeEdge e).cnt = s.cnt := by
  obtain ⟨h, _⟩ | ⟨h, _⟩ | ⟨h, _⟩ | ⟨_, h, _⟩ := decodeEdge_cases e s <;> rw [h] <;> rfl

@[simp] theorem decodeEdge_s1 (e : Half) (s : State) : (s.decodeEdge e).s1 = s.s1 := by
  obtain ⟨h, _⟩ | ⟨h, _⟩ | ⟨h, _⟩ | ⟨_, h, _⟩ := decodeEdge_cases e s <;> rw [h] <;> rfl

@[simp] theorem decodeEdge_s2 (e : Half) (s : State) : (s.decodeEdge e).s2 = s.s2 := by
  obtain ⟨h, _⟩ | ⟨h, _⟩ | ⟨h, _⟩ | ⟨_, h, _⟩ := decodeEdge_cases e s <;> rw [h] <;> rfl

@[simp] theorem decodeEdge_prev (e : Half) (s : State) : (s.decodeEdge e).prev = s.prev := by
  obtain ⟨h, _⟩ | ⟨h, _⟩ | ⟨h, _⟩ | ⟨_, h, _⟩ := decodeEdge_cases e s <;> rw [h] <;> rfl

@[simp] theorem decodeEdge_rdata (e : Half) (s : State) : (s.decodeEdge e).rdata = s.rdata := by
  obtain ⟨h, _⟩ | ⟨h, _⟩ | ⟨h, _⟩ | ⟨_, h, _⟩ := decodeEdge_cases e s <;> rw [h] <;> rfl

@[simp] theorem decodeEdge_inputs (e : Half) (s : State) : (s.decodeEdge e).inputs = s.inputs := by
  obtain ⟨h, _⟩ | ⟨h, _⟩ | ⟨h, _⟩ | ⟨_, h, _⟩ := decodeEdge_cases e s <;> rw [h] <;> rfl

@[simp] theorem decodeEdge_reporter (e : Half) (s : State) : (s.decodeEdge e).reporter = s.reporter := by
  obtain ⟨h, _⟩ | ⟨h, _⟩ | ⟨h, _⟩ | ⟨_, h, _⟩ := decodeEdge_cases e s <;> rw [h] <;> rfl

/-- EDGE is `Decode` of the elapsed µs, on the state with the counter at 0 (R77). -/
theorem edge_eq (s : State) : s.edge = State.decodeEdge (usOfTicks s.cnt) { s with cnt := 0#16 } := rfl

@[simp] theorem edge_cnt (s : State) : s.edge.cnt = 0#16 := by simp [edge_eq]
@[simp] theorem edge_s1 (s : State) : s.edge.s1 = s.s1 := by simp [edge_eq]
@[simp] theorem edge_s2 (s : State) : s.edge.s2 = s.s2 := by simp [edge_eq]
@[simp] theorem edge_prev (s : State) : s.edge.prev = s.prev := by simp [edge_eq]
@[simp] theorem edge_rdata (s : State) : s.edge.rdata = s.rdata := by simp [edge_eq]
@[simp] theorem edge_inputs (s : State) : s.edge.inputs = s.inputs := by simp [edge_eq]
@[simp] theorem edge_reporter (s : State) : s.edge.reporter = s.reporter := by simp [edge_eq]

end Sys2Proof.Machine
end

