-- ==== Sys2Proof/Laws/PerInstr.lean ====
section
/-! SUPPORT. Statements made once per operation: the encoded word of a well-formed operation is a word of its row of the
opcode map (30_encoding.md R55). -/

namespace Sys2Proof.Laws.RowMatch

/-- The word of `i`, if `i` is well formed, matches every row of the map that bears its mnemonic. -/
def Statement (i : Instr) : Prop :=
  i.wf = true → ∀ r ∈ opcodeTable, r.mnemonic = mnemonicOf i → r.accepts (encode i)

/-- A row's pattern and mask given by fields: the word's fields under the mask are the pattern's. -/
theorem accepts_of_fields {r : OpcodeRow} {cls sub mcls msub pcls psub : BitVec 2} {a ma pa : Addr} {d md pd : Half}
    (hm : r.mask = wordOf mcls msub ma md) (hp : r.pattern = wordOf pcls psub pa pd)
    (h1 : cls &&& mcls = pcls) (h2 : sub &&& msub = psub) (h3 : a &&& ma = pa) (h4 : d &&& md = pd) :
    r.accepts (wordOf cls sub a d) := by
  rw [OpcodeRow.accepts, hm, hp, wordOf_and, h1, h2, h3, h4]

/-- A row is the only one with its mnemonic, so a statement about it is a statement about the operation. -/
theorem of_row {i : Instr} {r₀ : OpcodeRow} (hf : (opcodeTable.filter fun r => r.mnemonic == r₀.mnemonic) = [r₀])
    (hm : mnemonicOf i = r₀.mnemonic) (h : i.wf = true → r₀.accepts (encode i)) : Statement i := by
  intro hw r hr hr'
  have : r ∈ opcodeTable.filter fun r => r.mnemonic == r₀.mnemonic :=
    List.mem_filter.2 ⟨hr, by simpa using hr'.trans hm⟩
  rw [hf, List.mem_singleton] at this
  exact this ▸ h hw

/-! ### Operand fields under the masks -/

theorem channel_accepts : ∀ k : Fin 8, rdWord (BitVec.ofNat 4 k.val) &&& 0xF8FFFF#24 = 0x400000#24 := by decide

theorem addr_low : ∀ a : Addr, decide (a.toNat ≤ 0x7) = true → a &&& 8#4 = 0#4 := by decide

theorem addr_gs : ∀ a : Addr, decide (a.toNat = 0x8 ∨ a.toNat = 0x9) = true → a &&& 14#4 = 8#4 := by decide

theorem addr_cf : ∀ a : Addr, decide (0xC ≤ a.toNat) = true → a &&& 12#4 = 12#4 := by decide

theorem bit0_set (d : Half) (h : d.getLsbD 0 = true) : d &&& 1#16 = 1#16 := by
  apply BitVec.eq_of_toNat_eq
  simp only [BitVec.getLsbD, Nat.testBit_zero, decide_eq_true_eq] at h
  simp only [BitVec.toNat_and, BitVec.toNat_ofNat, Nat.reducePow, Nat.reduceMod, Nat.and_one_is_mod]
  exact h

theorem bit0_clear (d : Half) (h : d.getLsbD 0 = false) : d &&& 1#16 = 0#16 := by
  apply BitVec.eq_of_toNat_eq
  simp only [BitVec.getLsbD, Nat.testBit_zero, decide_eq_false_iff_not] at h
  simp only [BitVec.toNat_and, BitVec.toNat_ofNat, Nat.reducePow, Nat.reduceMod, Nat.and_one_is_mod]
  omega

/-! ### Each operation -/

theorem tick : Statement .tick :=
  of_row (r₀ := ⟨"TICK", 0x000000#24, 0xFFFFFF#24⟩) (by decide) rfl fun _ => by unfold OpcodeRow.accepts; decide

theorem edge : Statement .edge :=
  of_row (r₀ := ⟨"EDGE", 0x100000#24, 0xFFFFFF#24⟩) (by decide) rfl fun _ => by unfold OpcodeRow.accepts; decide

theorem edgeE (e : Half) : Statement (.edgeE e) :=
  of_row (r₀ := ⟨"EDGE_E", 0x200000#24, 0xFF0000#24⟩) (by decide) rfl fun _ =>
    accepts_of_fields (mcls := 3) (msub := 3) (ma := 15) (md := 0) (pcls := 0) (psub := 2) (pa := 0) (pd := 0)
      (by decide) (by decide) (by decide) (by decide) (by decide) (BitVec.and_zero)

theorem reset : Statement .reset :=
  of_row (r₀ := ⟨"RESET", 0x300000#24, 0xFFFFFF#24⟩) (by decide) rfl fun _ => by unfold OpcodeRow.accepts; decide

theorem rdCh (k : Fin 8) : Statement (.rdCh k) :=
  of_row (r₀ := ⟨"RD_CH", 0x400000#24, 0xF8FFFF#24⟩) (by decide) rfl fun _ => channel_accepts k

theorem rdGap : Statement .rdGap :=
  of_row (r₀ := ⟨"RD_GAP", 0x480000#24, 0xFFFFFF#24⟩) (by decide) rfl fun _ => by unfold OpcodeRow.accepts; decide

theorem rdStatus : Statement .rdStatus :=
  of_row (r₀ := ⟨"RD_STATUS", 0x490000#24, 0xFFFFFF#24⟩) (by decide) rfl fun _ => by unfold OpcodeRow.accepts; decide

theorem rdCtrl : Statement .rdCtrl :=
  of_row (r₀ := ⟨"RD_CTRL", 0x4A0000#24, 0xFFFFFF#24⟩) (by decide) rfl fun _ => by unfold OpcodeRow.accepts; decide

theorem rdRsvdB : Statement .rdRsvdB :=
  of_row (r₀ := ⟨"RD_RSVD_B", 0x4B0000#24, 0xFFFFFF#24⟩) (by decide) rfl fun _ => by unfold OpcodeRow.accepts; decide

theorem rdRsvdCf (a : Addr) : Statement (.rdRsvdCf a) :=
  of_row (r₀ := ⟨"RD_RSVD_CF", 0x4C0000#24, 0xFCFFFF#24⟩) (by decide) rfl fun hw =>
    accepts_of_fields (mcls := 3) (msub := 3) (ma := 12) (md := 0xFFFF) (pcls := 1) (psub := 0) (pa := 12) (pd := 0)
      (by decide) (by decide) (by decide) (by decide) (addr_cf a hw) (by decide)

theorem wrRoCh (a : Addr) (v : Half) : Statement (.wrRoCh a v) :=
  of_row (r₀ := ⟨"WR_RO_CH", 0x800000#24, 0xF80000#24⟩) (by decide) rfl fun hw =>
    accepts_of_fields (mcls := 3) (msub := 3) (ma := 8) (md := 0) (pcls := 2) (psub := 0) (pa := 0) (pd := 0)
      (by decide) (by decide) (by decide) (by decide) (addr_low a hw) (BitVec.and_zero)

theorem wrRoGs (a : Addr) (v : Half) : Statement (.wrRoGs a v) :=
  of_row (r₀ := ⟨"WR_RO_GS", 0x880000#24, 0xFE0000#24⟩) (by decide) rfl fun hw =>
    accepts_of_fields (mcls := 3) (msub := 3) (ma := 14) (md := 0) (pcls := 2) (psub := 0) (pa := 8) (pd := 0)
      (by decide) (by decide) (by decide) (by decide) (addr_gs a hw) (BitVec.and_zero)

theorem release (v : Half) : Statement (.release v) :=
  of_row (r₀ := ⟨"RELEASE", 0x8A0001#24, 0xFF0001#24⟩) (by decide) rfl fun hw =>
    accepts_of_fields (mcls := 3) (msub := 3) (ma := 15) (md := 1) (pcls := 2) (psub := 0) (pa := 10) (pd := 1)
      (by decide) (by decide) (by decide) (by decide) (by decide) (bit0_set v hw)

theorem wrCtrlNop (v : Half) : Statement (.wrCtrlNop v) :=
  of_row (r₀ := ⟨"WR_CTRL_NOP", 0x8A0000#24, 0xFF0001#24⟩) (by decide) rfl fun hw =>
    accepts_of_fields (mcls := 3) (msub := 3) (ma := 15) (md := 1) (pcls := 2) (psub := 0) (pa := 10) (pd := 0)
      (by decide) (by decide) (by decide) (by decide) (by decide) (bit0_clear v (by simpa [Instr.wf] using hw))

theorem wrRsvdB (v : Half) : Statement (.wrRsvdB v) :=
  of_row (r₀ := ⟨"WR_RSVD_B", 0x8B0000#24, 0xFF0000#24⟩) (by decide) rfl fun _ =>
    accepts_of_fields (mcls := 3) (msub := 3) (ma := 15) (md := 0) (pcls := 2) (psub := 0) (pa := 11) (pd := 0)
      (by decide) (by decide) (by decide) (by decide) (by decide) (BitVec.and_zero)

theorem wrRsvdCf (a : Addr) (v : Half) : Statement (.wrRsvdCf a v) :=
  of_row (r₀ := ⟨"WR_RSVD_CF", 0x8C0000#24, 0xFC0000#24⟩) (by decide) rfl fun hw =>
    accepts_of_fields (mcls := 3) (msub := 3) (ma := 12) (md := 0) (pcls := 2) (psub := 0) (pa := 12) (pd := 0)
      (by decide) (by decide) (by decide) (by decide) (addr_cf a hw) (BitVec.and_zero)

end Sys2Proof.Laws.RowMatch
end

