-- ==== Sys2Proof/Laws/Registers.lean ====
section
/-! SUPPORT. The register map: what each address reads, and what a write can do. -/

namespace Sys2Proof.Machine

theorem regAt_channel : ∀ k : Fin 8, regAt (addrOfChannel k) = .ch k := by decide

theorem regAt_low {a : Addr} (h : a.toNat ≤ 7) : regAt a = .ch (channelOfAddr a) := by simp [regAt, h]

theorem regAt_high {a : Addr} (h : 0xB ≤ a.toNat) : regAt a = .reserved := by revert a; decide

variable (s : State)

@[simp] theorem readReg_channel (k : Fin 8) : s.readReg (addrOfChannel k) = s.readBuf (entryOfChannel k) := by
  simp [State.readReg, regAt_channel, State.regValue]

@[simp] theorem readReg_gap : s.readReg 0x8#4 = s.readBuf gapEntry := rfl

@[simp] theorem readReg_status : s.readReg 0x9#4 = statusWord s.idx s.ready := rfl

@[simp] theorem readReg_ctrl : s.readReg 0xA#4 = 0#16 := rfl

theorem readReg_reserved {a : Addr} (h : 0xB ≤ a.toNat) : s.readReg a = 0#16 := by
  simp [State.readReg, regAt_high h, State.regValue]

/-- A read sees only the buffer, the index and the Ready Flag (10_state.md R30). -/
theorem readReg_congr {s t : State} (hb : s.buf = t.buf) (hr : s.ready = t.ready) (hi : s.idx = t.idx) (a : Addr) :
    s.readReg a = t.readReg a := by
  cases h : regAt a <;> simp [State.readReg, h, State.regValue, State.readBuf, hb, hr, hi]

/-- Everything a host write can do: RELEASE, when it sets bit 0 of CTRL, or nothing. -/
theorem writeReg_cases (a : Addr) (v : Half) :
    (s.writeReg a v = s.release ∧ a = 0xA#4 ∧ releaseBit v = true) ∨
    (s.writeReg a v = s ∧ ¬(a = 0xA#4 ∧ releaseBit v = true)) := by
  by_cases h : a = 0xA#4
  · subst h
    cases hv : releaseBit v
    · exact .inr ⟨by simp [State.writeReg, regAt, hv], by simp⟩
    · exact .inl ⟨by simp [State.writeReg, regAt, hv], rfl, rfl⟩
  · refine .inr ⟨?_, fun hh => h hh.1⟩
    have : regAt a ≠ .ctrl := by revert a; decide
    cases hr : regAt a <;> simp_all [State.writeReg]

theorem writeReg_ne_ctrl {a : Addr} (h : a ≠ 0xA#4) (v : Half) : s.writeReg a v = s := by
  obtain ⟨_, ha, _⟩ | ⟨h', _⟩ := writeReg_cases s a v
  · exact absurd ha h
  · exact h'

theorem writeReg_ctrl (v : Half) : s.writeReg 0xA#4 v = if releaseBit v then s.release else s := rfl

end Sys2Proof.Machine
end

