-- ==== Sys2Proof/Laws/StepLaws.lean ====
section
/-! SUPPORT. Everything one operation, one clock cycle, one move of the Reporter and one step can do. -/

namespace Sys2Proof.Machine

/-! ### Outcomes -/

@[simp] theorem andThen_next (s : State) (f : State → Host.Outcome State Fault Refusal) : andThen (.next s) f = f s := rfl

theorem andThen_eq_next {o : Host.Outcome State Fault Refusal} {f : State → Host.Outcome State Fault Refusal} {t : State}
    (h : andThen o f = .next t) : ∃ s, o = .next s ∧ f s = .next t := by
  cases o with
  | next s => exact ⟨s, rfl, h⟩
  | fault r => cases h
  | refused r => cases h

@[simp] theorem runOps_nil (s : State) : runOps [] s = .next s := rfl

theorem runOps_cons (i : Instr) (is : List Instr) (s : State) : runOps (i :: is) s = andThen (exec i s) (runOps is) := rfl

@[simp] theorem runWords_nil (s : State) : runWords [] s = .next s := rfl

theorem runWords_cons (w : OpWord) (ws : List OpWord) (s : State) :
    runWords (w :: ws) s = andThen (execWord w s) (runWords ws) := rfl

theorem runOps_append (is js : List Instr) (s : State) : runOps (is ++ js) s = andThen (runOps is s) (runOps js) := by
  induction is generalizing s with
  | nil => rfl
  | cons i is ih =>
    rw [List.cons_append, runOps_cons, runOps_cons]
    cases exec i s with
    | next t => exact ih t
    | fault r => rfl
    | refused r => rfl

theorem runWords_append (us ws : List OpWord) (s : State) :
    runWords (us ++ ws) s = andThen (runWords us s) (runWords ws) := by
  induction us generalizing s with
  | nil => rfl
  | cons w us ih =>
    rw [List.cons_append, runWords_cons, runWords_cons]
    cases execWord w s with
    | next t => exact ih t
    | fault r => rfl
    | refused r => rfl

theorem execWord_op {w : OpWord} {i : Instr} (h : decode w = .op i) (s : State) : execWord w s = exec i s := by
  simp [execWord, h]

theorem execWord_refused {w : OpWord} {why : RefusedWord} (h : decode w = .refused why) (s : State) :
    execWord w s = .refused (.refusedWord why) := by simp [execWord, h]

/-! ### One operation -/

/-- Everything one operation can do: a tick, an edge, a reset, a read that only drives `rdata`, a release, or nothing. -/
theorem exec_cases {i : Instr} {s t : State} (h : exec i s = .next t) :
    (i = .tick ∧ t = s.tick) ∨ (i = .edge ∧ t = s.edge) ∨ (∃ e, i = .edgeE e ∧ t = s.decodeEdge e) ∨
    (i = .reset ∧ t = s.resetBlock) ∨
    (inHostContext i = true ∧ releasesOrResets i = false ∧ ∃ v, t = s.driveRdata v) ∨
    ((∃ d, i = .release d) ∧ t = s.release) ∨
    (inHostContext i = true ∧ releasesOrResets i = false ∧ t = s) := by
  cases i with
  | tick => cases h; exact .inl ⟨rfl, rfl⟩
  | edge => cases h; exact .inr (.inl ⟨rfl, rfl⟩)
  | edgeE e => cases h; exact .inr (.inr (.inl ⟨e, rfl, rfl⟩))
  | reset => cases h; exact .inr (.inr (.inr (.inl ⟨rfl, rfl⟩)))
  | rdCh k => cases h; exact .inr (.inr (.inr (.inr (.inl ⟨rfl, rfl, _, rfl⟩))))
  | rdGap => cases h; exact .inr (.inr (.inr (.inr (.inl ⟨rfl, rfl, _, rfl⟩))))
  | rdStatus => cases h; exact .inr (.inr (.inr (.inr (.inl ⟨rfl, rfl, _, rfl⟩))))
  | rdCtrl => cases h; exact .inr (.inr (.inr (.inr (.inl ⟨rfl, rfl, _, rfl⟩))))
  | rdRsvdB => cases h; exact .inr (.inr (.inr (.inr (.inl ⟨rfl, rfl, _, rfl⟩))))
  | rdRsvdCf a => cases h; exact .inr (.inr (.inr (.inr (.inl ⟨rfl, rfl, _, rfl⟩))))
  | wrRoCh a d => cases h; exact .inr (.inr (.inr (.inr (.inr (.inr ⟨rfl, rfl, rfl⟩)))))
  | wrRoGs a d => cases h; exact .inr (.inr (.inr (.inr (.inr (.inr ⟨rfl, rfl, rfl⟩)))))
  | release d => cases h; exact .inr (.inr (.inr (.inr (.inr (.inl ⟨⟨d, rfl⟩, rfl⟩)))))
  | wrCtrlNop d => cases h; exact .inr (.inr (.inr (.inr (.inr (.inr ⟨rfl, rfl, rfl⟩)))))
  | wrRsvdB d => cases h; exact .inr (.inr (.inr (.inr (.inr (.inr ⟨rfl, rfl, rfl⟩)))))
  | wrRsvdCf a d => cases h; exact .inr (.inr (.inr (.inr (.inr (.inr ⟨rfl, rfl, rfl⟩)))))

/-- What no operation touches: the stimuli and the Reporter. -/
theorem exec_agents {i : Instr} {s t : State} (h : exec i s = .next t) :
    t.inputs = s.inputs ∧ t.reporter = s.reporter := by
  obtain ⟨_, rfl⟩ | ⟨_, rfl⟩ | ⟨_, _, rfl⟩ | ⟨_, rfl⟩ | ⟨_, _, _, rfl⟩ | ⟨_, rfl⟩ | ⟨_, _, rfl⟩ := exec_cases h <;> simp

/-! ### One host access of a clock cycle -/

/-- Everything a host access can do: drive `rdata` with the register read, release, or nothing. -/
theorem hostAccess_cases (p : PortIn) (s : State) :
    (s.hostAccess p = s.driveRdata (s.readReg p.addr) ∧ p.req = true ∧ p.we = false) ∨
    (s.hostAccess p = s.release ∧ p.req = true ∧ p.we = true ∧ p.addr = 0xA#4 ∧ releaseBit p.wdata = true) ∨
    (s.hostAccess p = s ∧ ¬(p.req = true ∧ p.we = false) ∧
      ¬(p.req = true ∧ p.we = true ∧ p.addr = 0xA#4 ∧ releaseBit p.wdata = true)) := by
  cases hr : p.req
  · exact .inr (.inr ⟨by simp [State.hostAccess, hr], by simp, by simp⟩)
  · cases hw : p.we
    · exact .inl ⟨by simp [State.hostAccess, hr, hw], rfl, rfl⟩
    · obtain ⟨h, ha, hb⟩ | ⟨h, hn⟩ := writeReg_cases s p.addr p.wdata
      · exact .inr (.inl ⟨by simpa [State.hostAccess, hr, hw] using h, rfl, rfl, ha, hb⟩)
      · exact .inr (.inr ⟨by simpa [State.hostAccess, hr, hw] using h, by simp, fun hh => hn hh.2.2⟩)

/-! ### One step -/

/-- Everything a step that answers a next state can do, by the stimulus it takes. -/
theorem step_cases {s t : State} (h : step s = .next t) :
    (s.inputs = [] ∧ t = s.beginStep []) ∨
    (∃ w rest i, s.inputs = .word w :: rest ∧ decode w = .op i ∧ exec i (s.beginStep rest) = .next t) ∨
    (∃ p rest, s.inputs = .ports p :: rest ∧ t = cycle p (s.beginStep rest)) ∨
    (∃ rest, s.inputs = .reporter :: rest ∧ reporterMove (s.beginStep rest) = .next t) ∨
    (∃ ms rest, s.inputs = .elapse ms :: rest ∧ t = reporterWait ms (s.beginStep rest)) := by
  unfold step at h
  split at h
  · cases h; exact .inl ⟨‹_›, rfl⟩
  · rename_i w rest hin
    cases hd : decode w with
    | op i => rw [execWord_op hd] at h; exact .inr (.inl ⟨w, rest, i, hin, hd, h⟩)
    | refused why => rw [execWord_refused hd] at h; cases h
  · rename_i p rest hin
    cases h; exact .inr (.inr (.inl ⟨p, rest, hin, rfl⟩))
  · rename_i rest hin
    exact .inr (.inr (.inr (.inl ⟨rest, hin, h⟩)))
  · rename_i ms rest hin
    cases h; exact .inr (.inr (.inr (.inr ⟨ms, rest, hin, rfl⟩)))

/-- Everything a move of the Reporter can do: nothing in the pause, else its operation and what it makes of the answer. -/
theorem reporterMove_cases {s t : State} (h : reporterMove s = .next t) :
    (s.reporter.request = none ∧ t = s) ∨
    (∃ i u, s.reporter.request = some i ∧ exec i s = .next u ∧
      t = { u with reporter := u.reporter.observe u.rdata }) := by
  unfold reporterMove at h
  split at h
  · cases h; exact .inl ⟨‹_›, rfl⟩
  · rename_i i hreq
    obtain ⟨u, hu, ht⟩ := andThen_eq_next h
    cases ht
    exact .inr ⟨i, u, hreq, hu, rfl⟩

/-! ### Several steps -/

theorem run_zero (s : State) : Host.Core.run core 0 s = .next s := rfl

theorem run_succ (k : Nat) {s t : State} (h : step s = .next t) :
    Host.Core.run core (k + 1) s = Host.Core.run core k t := by
  have h' : core.step s = .next t := h
  simp only [Host.Core.run, h']

theorem run_refused (k : Nat) {s : State} {r : Refusal} (h : step s = .refused r) :
    Host.Core.run core (k + 1) s = .refused r := by
  have h' : core.step s = .refused r := h
  simp only [Host.Core.run, h']

/-- A run of `k + 1` steps that answers a next state is a step and a run of `k`. -/
theorem run_succ_inv {k : Nat} {s t : State} (h : Host.Core.run core (k + 1) s = .next t) :
    ∃ u, step s = .next u ∧ Host.Core.run core k u = .next t := by
  cases hs : step s with
  | next u => exact ⟨u, rfl, by rw [← run_succ k hs]; exact h⟩
  | fault f => cases f
  | refused r => rw [run_refused k hs] at h; cases h

@[simp] theorem beginStep_buf (s : State) (rest : List Stimulus) : (s.beginStep rest).buf = s.buf := rfl
@[simp] theorem beginStep_ready (s : State) (rest : List Stimulus) : (s.beginStep rest).ready = s.ready := rfl
@[simp] theorem beginStep_idx (s : State) (rest : List Stimulus) : (s.beginStep rest).idx = s.idx := rfl
@[simp] theorem beginStep_cnt (s : State) (rest : List Stimulus) : (s.beginStep rest).cnt = s.cnt := rfl
@[simp] theorem beginStep_s1 (s : State) (rest : List Stimulus) : (s.beginStep rest).s1 = s.s1 := rfl
@[simp] theorem beginStep_s2 (s : State) (rest : List Stimulus) : (s.beginStep rest).s2 = s.s2 := rfl
@[simp] theorem beginStep_prev (s : State) (rest : List Stimulus) : (s.beginStep rest).prev = s.prev := rfl
@[simp] theorem beginStep_rdata (s : State) (rest : List Stimulus) : (s.beginStep rest).rdata = 0#16 := rfl
@[simp] theorem beginStep_inputs (s : State) (rest : List Stimulus) : (s.beginStep rest).inputs = rest := rfl
@[simp] theorem beginStep_reporter (s : State) (rest : List Stimulus) : (s.beginStep rest).reporter = s.reporter := rfl

end Sys2Proof.Machine
end

