-- ==== Sys2Proof/Tests/Slice0.lean ====
section
/-! SUPPORT. Tests of the model. Expected results are those of spec/95_test_vectors.md (named by its ids) and of the rules'
own examples. Witnesses show, for every statement with hypotheses, a state and operands that meet them. -/

namespace Sys2Proof.Tests

open Sys2Proof Sys2Proof.Machine

/-- A state with this Ready Flag, index, counter and buffer, otherwise as after reset. -/
def mk (ready : Bool) (idx : ChanIndex) (cnt : Nat) (buf : Vector Half 9) : State :=
  { State.reset with ready := ready, idx := idx, cnt := BitVec.ofNat 16 cnt, buf := buf }

/-- Eight equal channels and a gap. -/
def frame (v g : Half) : Vector Half 9 := #v[v, v, v, v, v, v, v, v, g]

/-- The outcome is a next state with this property. -/
def nextHas (o : Host.Outcome State Fault Refusal) (p : State → Bool) : Bool :=
  match o with
  | .next t => p t
  | .fault _ => false
  | .refused _ => false

/-- The outcome is exactly this next state. -/
def nextIs (o : Host.Outcome State Fault Refusal) (t : State) : Bool := nextHas o fun u => u == t

/-- A clock cycle's ports with nothing asserted. -/
def quiet : PortIn := ⟨false, false, false, false, false, 0#4, 0#16⟩

/-! ### Ill-formed operations are refused by the well-formedness check -/

theorem smoke_rdRsvdCf_low_address : (Instr.rdRsvdCf 0xB#4).wf = false := by decide
theorem smoke_wrRoCh_high_address : (Instr.wrRoCh 0x8#4 0#16).wf = false := by decide
theorem smoke_wrRoGs_other_address : (Instr.wrRoGs 0xA#4 0#16).wf = false ∧ (Instr.wrRoGs 0x7#4 0#16).wf = false := by decide
theorem smoke_release_bit0_clear : (Instr.release 0xFFFE#16).wf = false := by decide
theorem smoke_wrCtrlNop_bit0_set : (Instr.wrCtrlNop 1#16).wf = false := by decide
theorem smoke_wrRsvdCf_low_address : (Instr.wrRsvdCf 0xB#4 0#16).wf = false := by decide

/-! ### Decoding: a word of every operation (R59, 95_test_vectors.md 2.4 and 2.3) -/

theorem test_decode_tick : decode 0x000000#24 = .op .tick := by decide
theorem test_decode_edge : decode 0b000100000000000000000000#24 = .op .edge := by decide
theorem test_decode_edgeE : decode 0b001000000000101110111000#24 = .op (.edgeE 3000#16) := by decide
theorem test_decode_reset : decode 0b001100000000000000000000#24 = .op .reset := by decide
theorem test_decode_rdCh : decode 0b010000100000000000000000#24 = .op (.rdCh 2) := by decide
theorem test_decode_rdGap : decode 0b010010000000000000000000#24 = .op .rdGap := by decide
theorem test_decode_rdStatus : decode 0b010010010000000000000000#24 = .op .rdStatus := by decide
theorem test_decode_rdCtrl : decode 0b010010100000000000000000#24 = .op .rdCtrl := by decide
theorem test_decode_rdRsvdB : decode 0b010010110000000000000000#24 = .op .rdRsvdB := by decide
theorem test_decode_rdRsvdCf : decode 0b010011100000000000000000#24 = .op (.rdRsvdCf 0xE#4) := by decide
theorem test_decode_wrRoCh : decode 0b100000000000000000000111#24 = .op (.wrRoCh 0x0#4 7#16) := by decide
theorem test_decode_wrRoGs : decode 0b100010001111111111111111#24 = .op (.wrRoGs 0x8#4 0xFFFF#16) := by decide
theorem test_decode_release : decode 0b100010101111111111111111#24 = .op (.release 0xFFFF#16) := by decide
theorem test_decode_wrCtrlNop : decode 0b100010100000000000000010#24 = .op (.wrCtrlNop 2#16) := by decide
theorem test_decode_wrRsvdB : decode 0b100010111111111111111111#24 = .op (.wrRsvdB 0xFFFF#16) := by decide
theorem test_decode_wrRsvdCf : decode 0b100011000000000000000001#24 = .op (.wrRsvdCf 0xC#4 1#16) := by decide

/-- 95_test_vectors.md 2.4, the refused words. -/
theorem test_decode_refused :
    decode 0x000001#24 = .refused .evtOperand ∧ decode 0x010000#24 = .refused .evtMbz ∧
    decode 0x2FFFFF#24 = .refused .evtMbz ∧ decode 0x210000#24 = .refused .evtMbz ∧
    decode 0x410001#24 = .refused .rdMbz ∧ decode 0x900000#24 = .refused .wrMbz ∧
    decode 0xC00000#24 = .refused .reservedClass := by decide

theorem test_decodeTableWord :
    decodeTableWord 24 0x8A0001 = some (.release 1#16) ∧ decodeTableWord 24 0xC00000 = none ∧
    decodeTableWord 24 0x1000000 = none := by decide

/-! ### Edge Timer (T2, T3, T9 to T14) -/

theorem test_T2_tick : nextHas (exec .tick (mk false .unsync 4999 (frame 0 0))) (fun t => t.cnt == 5000#16) = true := by decide
theorem test_T3_tick_wraps : nextHas (exec .tick (mk true (.inFrame 0) 0xFFFF (frame 0 0)))
    (fun t => t.cnt == 0#16 && t.ready && t.idx == .inFrame 0) = true := by decide
theorem test_T9_T10_threshold_in_ticks :
    nextHas (exec .edge (mk false (.inFrame 0) 5001 (frame 0 0))) (fun t => t.buf[0] == 2500#16 && !t.ready) = true ∧
    nextHas (exec .edge (mk false (.inFrame 0) 5002 (frame 0 0))) (fun t => t.buf[8] == 2501#16 && t.ready) = true := by decide
theorem test_T8_T11_floor : usOfTicks 3001#16 = 1500#16 ∧ usOfTicks 1#16 = 0#16 ∧ usOfTicks 0xFFFF#16 = 32767#16 := by decide
theorem test_T13_dropped_edge_restarts_timer : nextIs (exec .edge (mk true (.inFrame 0) 3000 (frame 1500 3000)))
    (mk true (.inFrame 0) 0 (frame 1500 3000)) = true := by decide
theorem test_T14_edgeE_leaves_counter : nextHas (exec (.edgeE 3000#16) (mk false .unsync 40 (frame 0 0)))
    (fun t => t.cnt == 40#16 && t.idx == .inFrame 0) = true := by decide

/-! ### Frame Decoder (FD vectors) -/

theorem test_FD2_drop : nextIs (exec (.edgeE 9000#16) (mk true (.inFrame 0) 0 (frame 1500 3000)))
    (mk true (.inFrame 0) 0 (frame 1500 3000)) = true := by decide
theorem test_FD3_sync_acquire : nextIs (exec (.edgeE 2501#16) (mk false .unsync 0 (frame 0 0)))
    (mk false (.inFrame 0) 0 (frame 0 0)) = true := by decide
theorem test_FD5_wait_sync : nextIs (exec (.edgeE 2500#16) (mk false .unsync 0 (frame 0 0)))
    (mk false .unsync 0 (frame 0 0)) = true := by decide
theorem test_FD8_channel : nextIs (exec (.edgeE 1999#16) (mk false (.inFrame 7) 0 #v[1, 2, 3, 4, 5, 6, 7, 11, 9]))
    (mk false (.inFrame 8) 0 #v[1, 2, 3, 4, 5, 6, 7, 1999, 9]) = true := by decide
theorem test_FD9_overflow_channel : nextIs (exec (.edgeE 1000#16) (mk false (.inFrame 8) 0 (frame 1500 0)))
    (mk false (.inFrame 8) 0 (frame 1500 0)) = true := by decide
theorem test_FD10_frame_end : nextIs (exec (.edgeE 3000#16) (mk false (.inFrame 8) 0 (frame 1500 0)))
    (mk true (.inFrame 0) 0 (frame 1500 3000)) = true := by decide
theorem test_FD11_short_frame : nextIs (exec (.edgeE 2501#16) (mk false (.inFrame 3) 0 #v[1, 2, 3, 4, 5, 6, 7, 8, 9]))
    (mk true (.inFrame 0) 0 #v[1, 2, 3, 4, 5, 6, 7, 8, 2501]) = true := by decide
theorem test_FD13_edge : nextIs (exec .edge (mk false (.inFrame 2) 2400 (frame 0 0)))
    (mk false (.inFrame 3) 0 #v[0, 0, 1200, 0, 0, 0, 0, 0, 0]) = true := by decide

/-! ### Host interface (HI vectors) -/

theorem test_HI1_HI4_status :
    nextHas (exec .rdStatus State.reset) (fun t => t.rdata == 0xFF00#16) = true ∧
    nextHas (exec .rdStatus (mk false (.inFrame 8) 0 (frame 0 0))) (fun t => t.rdata == 0x0800#16) = true := by decide
theorem test_HI5_status_ready : nextHas (exec .rdStatus (mk true (.inFrame 0) 0 (frame 0 0))) (fun t => t.rdata == 1#16) = true := by decide
theorem test_HI7_read_channel : nextHas (exec (.rdCh 7) (mk false .unsync 0 #v[0, 1, 2, 3, 4, 5, 6, 2000, 8]))
    (fun t => t.rdata == 0x07D0#16) = true := by decide
theorem test_HI8_read_gap : nextHas (exec .rdGap (mk false .unsync 0 (frame 1500 3000))) (fun t => t.rdata == 0x0BB8#16) = true := by decide
theorem test_HI9_HI10_read_zero :
    nextIs (exec .rdCtrl (mk true (.inFrame 0) 5 (frame 1 3000))) (mk true (.inFrame 0) 5 (frame 1 3000)) = true ∧
    nextHas (exec .rdRsvdB { State.reset with rdata := 7#16 }) (fun t => t.rdata == 0#16) = true ∧
    nextHas (exec (.rdRsvdCf 0xF#4) { State.reset with rdata := 7#16 }) (fun t => t.rdata == 0#16) = true := by decide
theorem test_HI11_HI13_read_only :
    nextIs (exec (.wrRoCh 0#4 7#16) (mk true (.inFrame 0) 3 (frame 1500 3000))) (mk true (.inFrame 0) 3 (frame 1500 3000)) = true ∧
    nextIs (exec (.wrRoGs 9#4 0#16) (mk true (.inFrame 0) 3 (frame 1500 3000))) (mk true (.inFrame 0) 3 (frame 1500 3000)) = true := by decide
theorem test_HI14_release : nextIs (exec (.release 1#16) (mk true (.inFrame 0) 77 (frame 1500 3000)))
    (mk false .unsync 77 (frame 1500 3000)) = true := by decide
theorem test_HI15_release_not_ready : nextIs (exec (.release 0xFFFF#16) (mk false (.inFrame 4) 0 (frame 1 0)))
    (mk false .unsync 0 (frame 1 0)) = true := by decide
theorem test_HI18_HI20_no_effect :
    nextIs (exec (.wrCtrlNop 0xFFFE#16) (mk true (.inFrame 0) 0 (frame 1 3000))) (mk true (.inFrame 0) 0 (frame 1 3000)) = true ∧
    nextIs (exec (.wrRsvdB 0xFFFF#16) (mk true (.inFrame 0) 0 (frame 1 3000))) (mk true (.inFrame 0) 0 (frame 1 3000)) = true ∧
    nextIs (exec (.wrRsvdCf 0xC#4 1#16) (mk true (.inFrame 0) 0 (frame 1 3000))) (mk true (.inFrame 0) 0 (frame 1 3000)) = true := by decide

/-- R111's example. -/
theorem test_reset : nextIs (exec .reset (mk true (.inFrame 0) 77 (frame 5 3000))) State.reset = true := by decide

/-! ### Cycles (CY vectors) -/

/-- A rise at the start of the cycle. -/
def rising (s : State) : State := { s with s1 := true, s2 := true, prev := false }

theorem test_CY1_release_tick_edge :
    cycle ⟨false, true, true, true, true, 0xA#4, 1#16⟩ (rising (mk true (.inFrame 0) 6000 (frame 1500 3000))) =
      mk false (.inFrame 0) 0 (frame 1500 3000) := by decide
theorem test_CY2_read_tick_edge :
    cycle ⟨false, true, true, true, false, 0x7#4, 0#16⟩ (rising (mk false (.inFrame 7) 2999 (frame 0 0))) =
      mk false (.inFrame 8) 0 #v[0, 0, 0, 0, 0, 0, 0, 1500, 0] := by decide
theorem test_CY3_status_tick_edge :
    cycle ⟨false, true, true, true, false, 0x9#4, 0#16⟩ (rising (mk false (.inFrame 8) 7000 (frame 0 0))) =
      { mk true (.inFrame 0) 0 (frame 0 3500) with rdata := 0x0800#16 } := by decide
theorem test_CY4_reset_only :
    cycle ⟨true, true, true, true, true, 0xA#4, 1#16⟩ (rising (mk true (.inFrame 0) 9 (frame 7 3000))) = State.reset := by decide
/-- CY5, cycle 6: the tick of the cycle counts, `e = 3`, WAIT-SYNC. -/
theorem test_CY5_cycle_6 :
    cycle ⟨false, true, true, false, false, 0#4, 0#16⟩ (rising (mk false .unsync 5 (frame 0 0))) = State.reset := by decide

/-! ### Steps -/

theorem test_step_runs_word : nextIs (step (State.reset.withFetchWord 24 0x200BB8)) (mk false (.inFrame 0) 0 (frame 0 0)) = true := by decide
theorem test_step_refuses_word :
    (match step (State.reset.withFetchWord 24 0xC00000) with
      | .refused r => r == .refusedWord .reservedClass
      | .next _ => false
      | .fault _ => false) = true := by decide
theorem test_step_idle : nextIs (step State.reset) State.reset = true := by decide

/-! ### Assembler and report line (30_encoding.md R59, R60; 95_test_vectors.md S7, P3) -/

theorem test_assemble_line : assembleLine "WR CTRL, #0xFFFE ; a no-op".toList = some [0x8AFFFE#24] := by decide
theorem test_assemble_lines : assemble "EDGE_E #3000\nRD CH8\nRD @0xC\nRELEASE".toList =
    some [0x200BB8#24, 0x470000#24, 0x4C0000#24, 0x8A0001#24] := by decide
theorem test_assemble_rejects : assembleLine "WR CH1 #7".toList = none ∧ assembleLine "RD @0xA".toList = none ∧
    assembleLine "EDGE_E #65536".toList = none := by decide
theorem test_report_line : reportLine (frame 1500 3000).toList =
    "1: 1500; 2: 1500; 3: 1500; 4: 1500; 5: 1500; 6: 1500; 7: 1500; 8: 1500; Pause: 3000; Total = 15000\n".toList := by decide
theorem test_report_line_P3 : reportLine [1111, 1222, 1333, 1444, 1555, 1500, 1500, 1500, 4500] =
    "1: 1111; 2: 1222; 3: 1333; 4: 1444; 5: 1555; 6: 1500; 7: 1500; 8: 1500; Pause: 4500; Total = 15665\n".toList := by decide

/-! ### Witnesses: the hypotheses of each statement can be met together -/

/-- Every row of the table of EdgeDecodesTheTimedInterval and EdgeEDecodesTheGivenInterval, at its boundary. -/
theorem witness_decodeTable :
    (mk true (.inFrame 0) 0 (frame 0 0)).ready = true ∧
    ((mk false .unsync 0 (frame 0 0)).ready = false ∧ (mk false .unsync 0 (frame 0 0)).idx = .unsync ∧ 2500 < (2501#16).toNat ∧
      (2500#16).toNat ≤ 2500) ∧
    ((mk false (.inFrame 8) 0 (frame 0 0)).ready = false ∧ (mk false (.inFrame 8) 0 (frame 0 0)).idx = .inFrame 8) ∧
    (mk false (.inFrame 7) 0 (frame 0 0)).idx = .inFrame (7 : Fin 8).castSucc := by decide

theorem witness_StatusReadReturnsIndexAndReady :
    State.reset.idx = .unsync ∧ (mk false (.inFrame 0) 0 (frame 0 0)).idx = .inFrame 0 ∧
    (mk true (.inFrame 8) 0 (frame 0 0)).idx = .inFrame 8 ∧ ReadyAtStart (mk true (.inFrame 0) 0 (frame 0 3000)) ∧
    (mk true (.inFrame 0) 0 (frame 0 3000)).ready = true := by unfold ReadyAtStart; decide

theorem witness_ControlAndReservedReadsReturnZero : 0xC ≤ (0xC#4).toNat ∧ 0xC ≤ (0xF#4).toNat := by decide

theorem witness_WritesWithoutEffectChangeNothing :
    (0x7#4).toNat ≤ 0x7 ∧ (0x8#4 = 0x8#4 ∨ 0x8#4 = 0x9#4) ∧ (0x9#4 = 0x8#4 ∨ 0x9#4 = 0x9#4) ∧
    (0xFFFE#16).getLsbD 0 = false ∧ 0xC ≤ (0xC#4).toNat := by decide

theorem witness_BufferReadsReturnTheEntry :
    GapInRange (mk false .unsync 0 (frame 0 0)) ∧ GapInRange (mk true (.inFrame 0) 0 (frame 0 2501)) := by
  unfold GapInRange; decide

theorem witness_ReleaseClearsReadyAndResynchronises :
    let p : PortIn := ⟨false, true, true, true, true, 0xA#4, 1#16⟩
    (1#16).getLsbD 0 = true ∧ p.rst = false ∧ p.req = true ∧ p.we = true ∧ p.addr = 0xA#4 ∧ p.wdata.getLsbD 0 = true := by decide

theorem witness_EdgeMeasuresTheTicksSinceTheLastEdge :
    (mk false (.inFrame 2) 0 (frame 1 0)).cnt = BitVec.ofNat 16 0 ∧ (mk false (.inFrame 2) 0 (frame 1 0)).cnt = BitVec.ofNat 16 65536 := by
  decide

theorem witness_OnlyTickEdgeAndResetChangeTheCounter :
    nextHas (exec .tick State.reset) (fun t => t.cnt != State.reset.cnt) = true := by decide

theorem witness_SyncThresholdIsFiveThousandAndTwoTicks :
    ((mk false (.inFrame 0) 5001 (frame 0 0)).ready = false ∧ (mk false (.inFrame 0) 5001 (frame 0 0)).idx = .inFrame 0) ∧
    ((mk false (.inFrame 8) 5002 (frame 0 0)).ready = false ∧ (mk false (.inFrame 8) 5002 (frame 0 0)).idx = .inFrame 8) := by decide

theorem witness_CounterCountsTicksSinceEdgeOrReset : (mk false .unsync 65535 (frame 0 0)).cnt = BitVec.ofNat 16 65535 := by decide

theorem witness_OnlyDecoderReleaseAndResetWriteTheIndex :
    nextHas (exec (.edgeE 2501#16) State.reset) (fun t => t.idx != State.reset.idx) = true ∧
    nextHas (exec (.release 1#16) (mk true (.inFrame 0) 0 (frame 0 3000))) (fun t => t.idx != .inFrame 0) = true := by decide

theorem witness_OnlyDecoderSetsReadyOnlyReleaseAndResetClearIt :
    nextHas (exec (.edgeE 2501#16) (mk false (.inFrame 0) 0 (frame 0 0))) (fun t => t.ready) = true ∧
    nextHas (exec (.release 1#16) (mk true (.inFrame 0) 0 (frame 0 3000))) (fun t => !t.ready) = true := by decide

theorem witness_HostOperationsNeitherChangeNorSeeTheTimer :
    inHostContext .rdStatus = true ∧ inHostContext (.release 1#16) = true ∧
    nextHas (exec .rdStatus (mk true (.inFrame 0) 5 (frame 0 3000))) (fun t => t.ready) = true := by decide

theorem witness_EntriesAreWrittenInFrameOrder :
    nextHas (exec (.edgeE 2500#16) (mk false (.inFrame 7) 0 (frame 0 0))) (fun t => t.buf[7] != 0#16) = true ∧
    nextHas (exec (.edgeE 2501#16) (mk false (.inFrame 0) 0 (frame 0 0))) (fun t => t.buf[8] != 0#16) = true := by decide

theorem witness_HostAccessesAreIdempotent :
    inHostContext (.rdCh 0) = true ∧ releasesOrResets (.rdCh 0) = false ∧ inHostContext (.release 1#16) = true := by decide

/-- A state that meets the invariants with `ready = 1`, at the bounds. -/
theorem full_frame_inv : Inv (mk true (.inFrame 0) 0 (frame 2500 2501)) :=
  ⟨by unfold ReadyAtStart; decide, by unfold ChannelsInRange; decide, by unfold GapInRange; decide⟩

theorem witness_EveryStepKeepsTheInvariants :
    Inv (mk true (.inFrame 0) 0 (frame 2500 2501)) ∧ nextHas (step (mk true (.inFrame 0) 0 (frame 2500 2501))) (fun _ => true) = true :=
  ⟨full_frame_inv, by decide⟩

theorem witness_EveryReachableStateMeetsTheInvariants :
    nextHas (Host.Core.run core 1 { State.reset with inputs := [.ports quiet] }) (fun _ => true) = true ∧
    ∀ e : Half, Stimulus.word (encode (.edgeE e)) ∉ [Stimulus.ports quiet] :=
  ⟨by decide, fun e h => nomatch List.mem_singleton.1 h⟩

theorem witness_EveryStepKeepsTheTimerBoundOnTheGap :
    let s : State := { mk false (.inFrame 8) 65535 (frame 1 32767) with inputs := [.word 0x100000#24] }
    (s.buf[8]).toNat ≤ 32767 ∧ (∀ x ∈ s.inputs.head?, ∀ e : Half, x ≠ .word (encode (.edgeE e))) ∧
      nextHas (step s) (fun t => t.ready && t.buf[8] == 32767#16) = true := by
  refine ⟨by decide, fun x hx e h => ?_, by decide⟩
  cases hx
  have : wordSub 0x100000#24 = wordSub (encode (.edgeE e)) := congrArg wordSub (Stimulus.word.inj h)
  rw [encode, evtWord_eq, wordSub_wordOf] at this
  exact absurd this (by decide)

theorem witness_ReadyProtectsTheFrame :
    (mk true (.inFrame 0) 0 (frame 1 3000)).ready = true ∧ releasesOrResets (.edgeE 9000#16) = false := by decide

theorem witness_HandshakeReadsOneFrameSnapshot :
    (mk true (.inFrame 0) 0 (frame 1 3000)).ready = true ∧
    ∀ i ∈ [Instr.rdStatus, .edge, .rdCh 0, .tick, .edgeE 3000#16, .rdGap], releasesOrResets i = false := by decide

theorem witness_StatusReadsOnlyTheListedValues :
    ReadyAtStart (mk true (.inFrame 0) 0 (frame 1 3000)) ∧ ReadyAtStart (mk false (.inFrame 8) 0 (frame 1 0)) ∧
    ReadyAtStart State.reset := by unfold ReadyAtStart; decide

theorem witness_WellFormedFrameDecodesExactly :
    (∀ k : Fin 8, ((#v[0, 1, 2, 3, 4, 5, 6, 2500] : Vector Half 8)[k]).toNat ≤ 2500) ∧ 2500 < (2501#16).toNat ∧
    (mk false (.inFrame 0) 0 (frame 9 9)).idx = .inFrame 0 ∧ (mk false .unsync 0 (frame 9 9)).idx = .unsync ∧
    (mk false (.inFrame 0) 0 (frame 9 9)).ready = false ∧ (mk false .unsync 0 (frame 9 9)).ready = false := by decide

theorem witness_ShortFrameKeepsStaleEntries :
    (mk false (.inFrame 0) 0 (frame 9 9)).ready = false ∧ (mk false (.inFrame 0) 0 (frame 9 9)).idx = .inFrame 0 ∧
    (List.replicate 7 (2500#16 : Half)).length < 8 ∧ (∀ e ∈ List.replicate 7 (2500#16 : Half), e.toNat ≤ 2500) ∧
    2500 < (2501#16).toNat ∧ (6 : Fin 8).val < (List.replicate 7 (2500#16 : Half)).length ∧
    (List.replicate 7 (2500#16 : Half)).length ≤ (7 : Fin 8).val :=
  ⟨by decide, by decide, by decide, fun e h => by rw [List.eq_of_mem_replicate h]; decide, by decide, by decide, by decide⟩

theorem witness_ReportAfterReleaseNeedsTwoSyncGaps :
    nextHas (runOps [.release 1#16, .edgeE 2501#16, .edgeE 2501#16] (mk true (.inFrame 0) 0 (frame 1 3000))) (fun t => t.ready) = true := by
  decide

theorem witness_NoSyncGapNoReport :
    (mk false (.inFrame 3) 0 (frame 1 0)).ready = false ∧ syncEdges [.edgeE 2500#16, .tick, .edge] (mk false (.inFrame 3) 0 (frame 1 0)) = 0 := by
  decide

theorem witness_DecodeOfEncodeIsTheOperation :
    (Instr.wrRsvdCf 0xC#4 0xFFFF#16).wf = true ∧ (Instr.release 1#16).wf = true ∧ (Instr.wrRoCh 0x7#4 0#16).wf = true := by decide

theorem witness_EncodeOfDecodeIsTheWord : decode 0x8F1234#24 = .op (.wrRsvdCf 0xF#4 0x1234#16) := by decide

theorem witness_OpcodeMapMatchesTheDecoder :
    (⟨"RD_CH", 0x400000#24, 0xF8FFFF#24⟩ : OpcodeRow) ∈ opcodeTable ∧
    0x470000#24 &&& 0xF8FFFF#24 = 0x400000#24 ∧ decode 0x470000#24 = .op (.rdCh 7) := by decide

theorem witness_ExactlyTheListedWordsAreRefused :
    wordCls 0xFFFFFF#24 = 0b11#2 ∧ (wordCls 0x01FFFF#24 = 0b00#2 ∧ wordAddr 0x01FFFF#24 ≠ 0#4) ∧
    (wordCls 0x308000#24 = 0b00#2 ∧ wordSub 0x308000#24 ≠ 0b10#2 ∧ wordData 0x308000#24 ≠ 0#16) ∧
    (wordCls 0x700000#24 = 0b01#2 ∧ wordSub 0x700000#24 ≠ 0#2) ∧ (wordCls 0x408000#24 = 0b01#2 ∧ wordData 0x408000#24 ≠ 0#16) ∧
    (wordCls 0xB00000#24 = 0b10#2 ∧ wordSub 0xB00000#24 ≠ 0#2) := by decide

/-- The clause of OperandsAreTakenFromTheirFields for each operation with operands. -/
theorem witness_OperandsAreTakenFromTheirFields :
    decode 0x470000#24 = .op (.rdCh 7) ∧ decode 0x20FFFF#24 = .op (.edgeE 0xFFFF#16) ∧ decode 0x4C0000#24 = .op (.rdRsvdCf 0xC#4) ∧
    decode 0x87FFFF#24 = .op (.wrRoCh 0x7#4 0xFFFF#16) ∧ decode 0x890005#24 = .op (.wrRoGs 0x9#4 5#16) ∧
    decode 0x8FFFFF#24 = .op (.wrRsvdCf 0xF#4 0xFFFF#16) ∧ decode 0x8B1234#24 = .op (.wrRsvdB 0x1234#16) ∧
    decode 0x8A0003#24 = .op (.release 3#16) ∧ decode 0x8A8000#24 = .op (.wrCtrlNop 0x8000#16) := by decide

theorem witness_StepRunsTheDecodedOperation :
    (State.reset.withFetchWord 24 0x490000).inputs = [.word 0x490000#24] ∧ decode 0x490000#24 = .op .rdStatus := by decide

theorem witness_StepIsRefusedOnlyOnWordsThatSpellNothing :
    (State.reset.withFetchWord 24 0xC00000).inputs = [.word 0xC00000#24] ∧ decode 0xC00000#24 = .refused .reservedClass := by decide

theorem witness_RegisterMapReadsAndWrites :
    0xB ≤ (0xB#4).toNat ∧ 0xB ≤ (0xF#4).toNat ∧ (0xA#4 = 0xA#4 ∧ (1#16).getLsbD 0 = true) ∧ ¬(0xA#4 = 0xA#4 ∧ (2#16).getLsbD 0 = true) := by
  decide

theorem witness_ResetRestoresEveryElement :
    ({ quiet with rst := true } : PortIn).rst = true ∧ ∀ q ∈ [({ quiet with rst := true, req := true } : PortIn)], q.rst = true := by decide

theorem witness_CycleReadReturnsTheStartOfTheCycle :
    (({ quiet with req := true, addr := 0x9#4 } : PortIn).rst = false ∧ ({ quiet with req := true, addr := 0x9#4 } : PortIn).req = true ∧
      ({ quiet with req := true, addr := 0x9#4 } : PortIn).we = false) := by decide

theorem witness_SameCycleReleaseComesBeforeTheEdge :
    let p : PortIn := ⟨false, true, true, true, true, 0xA#4, 1#16⟩
    let s := rising (mk true (.inFrame 0) 5001 (frame 1 3000))
    p.rst = false ∧ p.req = true ∧ p.we = true ∧ p.addr = 0xA#4 ∧ p.wdata.getLsbD 0 = true ∧ s.s2 = true ∧ s.prev = false ∧
      2500 < (s.cnt.toNat + if p.tickEn then 1 else 0) % 2 ^ 16 / 2 := by decide

theorem witness_CycleTakesAnEdgeExactlyOnARise :
    quiet.rst = false ∧
    ((rising State.reset).s2 = true ∧ (rising State.reset).prev = false) ∧ ¬(State.reset.s2 = true ∧ State.reset.prev = false) := by decide

theorem witness_EdgeActsTwoCyclesAfterItsSample :
    quiet.rst = false ∧ ({ quiet with ppmIn := true } : PortIn).rst = false ∧
    (runCycles [quiet, { quiet with ppmIn := true }, quiet] State.reset).rise = true := by decide

theorem witness_HighInputAfterResetIsNoEdge :
    nextIs (exec .reset (mk true (.inFrame 0) 9 (frame 1 3000))) State.reset = true ∧
    ∀ p ∈ [({ quiet with ppmIn := true } : PortIn)], p.rst = false ∧ p.ppmIn = true := by decide

theorem witness_ReadyProtectsTheFrameInEveryCycle :
    (rising (mk true (.inFrame 0) 6000 (frame 1 3000))).ready = true ∧
    portsReleaseOrReset ⟨false, true, true, true, true, 0xA#4, 2#16⟩ = false := by decide

theorem witness_AssemblerLinesAreTheirOperations : 0xC ≤ (0xC#4).toNat ∧ 0xC ≤ (0xF#4).toNat := by decide

theorem witness_PseudoOperationsExpand : State.reset.cnt = 0#16 ∧ 2 * 32767 < 2 ^ 16 := by decide

theorem witness_ReporterPollsUntilReady :
    ({ State.reset with inputs := [.reporter] } : State).inputs = [.reporter] ∧
    ({ State.reset with inputs := [.reporter] } : State).reporter.phase = .polling := by decide

theorem witness_ReporterDrainsThenReleases :
    (mk true (.inFrame 0) 0 (frame 1500 3000)).ready = true ∧ (mk true (.inFrame 0) 0 (frame 1500 3000)).reporter.phase = .polling := by
  decide

/-- The Reporter about to read GAP, and the step that completes its report. -/
theorem witness_ReporterReportsTheFrameItWasShown :
    let s : State := { mk true (.inFrame 0) 0 (frame 1500 3000) with
      inputs := [.reporter], reporter := ⟨.draining (List.replicate 8 1500#16), []⟩ }
    ReporterInv s ∧ (∀ x ∈ s.inputs.head?, foreignRelease x = false) ∧
      nextHas (step s) (fun t => t.reporter.reports == [(frame 1500 3000).toList]) = true :=
  ⟨⟨by decide, by decide, by decide⟩, by decide, by decide⟩

theorem witness_ReporterPausesAtLeastTwoSeconds :
    ({ State.reset with reporter := ⟨.pausing 2000, []⟩ } : State).reporter.phase = .pausing 2000 := by decide

/-- Both ends of the block's 16 locations, and one address past each clause's boundary. -/
theorem witness_PlatformViewsLoseNothing :
    blockAddr (Config.baseAddr + 0) = some 0#4 ∧ blockAddr (Config.baseAddr + 15) = some 15#4 ∧
    blockAddr (Config.baseAddr + 16) = none := by simp [blockAddr]

end Sys2Proof.Tests
end

section
/-! PROOFS. A step whose stimulus is a word. -/

namespace Sys2Proof.Machine

/-- The state in which a stimulus acts, written out (R31; log 3). -/
theorem beginStep_eq (s : State) (rest : List Stimulus) :
    s.beginStep rest = { s with inputs := rest, rdata := 0#16 } := rfl

/-- A step with a word in front hands that word to `execWord`, whether or not it spells an operation. -/
theorem step_word {s : State} {w : OpWord} {rest : List Stimulus} (h : s.inputs = .word w :: rest) :
    step s = execWord w (s.beginStep rest) := by
  simp only [step, h]

/-- Settles O38: the step is `execWord` on the word, and `execWord` on a word that decodes to `i` is `exec i`. -/
theorem stepRunsTheDecodedOperation : Obligations.StepRunsTheDecodedOperation := by
  intro s w rest i hin hdec
  calc step s
      _ = execWord w (s.beginStep rest) := step_word hin
      _ = exec i (s.beginStep rest) := execWord_op hdec _
      _ = exec i { s with inputs := rest, rdata := 0#16 } := by rw [beginStep_eq]

end Sys2Proof.Machine
end

section
/-! PROOFS. The frame: the buffer, `ready` and `idx` (10_state.md). What one operation, one clock cycle, one move of the
Reporter and one step do to it; an invariant of the frame is then checked against three updates only. -/

namespace Sys2Proof.Machine

/-- The two states hold the same frame: everything the Frame Decoder writes and the register map shows (R29, R30). -/
structure SameFrame (s t : State) : Prop where
  buf : t.buf = s.buf
  ready : t.ready = s.ready
  idx : t.idx = s.idx

theorem SameFrame.refl (s : State) : SameFrame s s := ⟨rfl, rfl, rfl⟩

theorem SameFrame.trans {s t u : State} (h : SameFrame s t) (h' : SameFrame t u) : SameFrame s u :=
  ⟨h'.buf.trans h.buf, h'.ready.trans h.ready, h'.idx.trans h.idx⟩

theorem SameFrame.readBuf_eq {s t : State} (h : SameFrame s t) (k : Fin 9) : t.readBuf k = s.readBuf k := by
  rw [Machine.readBuf_eq, Machine.readBuf_eq, h.buf]

/-! ### `Decode(e)` and the frame -/

theorem SameFrame.channelPulse {s t : State} (h : SameFrame s t) (i : Fin 9) (e : Half) :
    SameFrame (s.channelPulse i e) (t.channelPulse i e) := by
  unfold State.channelPulse
  split
  · exact ⟨by simp [h.buf], h.ready, rfl⟩
  · exact h

/-- `Decode(e)` of a frame depends on the frame alone: not on the counter, the sampler or the ports (R30). -/
theorem SameFrame.decodeEdge {s t : State} (h : SameFrame s t) (e : Half) :
    SameFrame (s.decodeEdge e) (t.decodeEdge e) := by
  cases hr : s.ready with
  | true => rwa [decodeEdge_ready hr, decodeEdge_ready (h.ready.trans hr)]
  | false =>
    have hr' := h.ready.trans hr
    rcases Nat.lt_or_ge 2500 e.toNat with he | he <;> cases hi : s.idx
    case inl.unsync =>
      rw [decodeEdge_sync_unsync hr hi he, decodeEdge_sync_unsync hr' (h.idx.trans hi) he]
      exact ⟨h.buf, h.ready, rfl⟩
    case inl.inFrame =>
      rw [decodeEdge_sync_inFrame hr hi he, decodeEdge_sync_inFrame hr' (h.idx.trans hi) he]
      exact ⟨by simp [h.buf], rfl, rfl⟩
    case inr.unsync => rwa [decodeEdge_pulse_unsync hr hi he, decodeEdge_pulse_unsync hr' (h.idx.trans hi) he]
    case inr.inFrame =>
      rw [decodeEdge_pulse_inFrame hr hi he, decodeEdge_pulse_inFrame hr' (h.idx.trans hi) he]
      exact h.channelPulse _ e

/-- What channel entry `k` holds after `Decode(e)`: what it held, or `e` by the CHANNEL row at `InFrame(k)` (R75). -/
theorem decodeEdge_channelEntry (e : Half) (s : State) (k : Fin 8) :
    (s.decodeEdge e).readBuf (entryOfChannel k) = s.readBuf (entryOfChannel k) ∨
    ((s.decodeEdge e).readBuf (entryOfChannel k) = e ∧ e.toNat ≤ 2500 ∧
      s.ready = false ∧ s.idx = .inFrame k.castSucc ∧ (s.decodeEdge e).idx = .inFrame k.succ) := by
  obtain ⟨h, _⟩ | ⟨h, _⟩ | ⟨h, _⟩ | ⟨i, h, hr, hi, he⟩ := decodeEdge_cases e s <;> rw [h]
  · exact .inl rfl
  · exact .inl rfl
  · exact .inl (readBuf_writeBuf_of_ne s gapEntry _ e k.castSucc_ne_last.symm)
  · by_cases hik : i = k
    · subst hik
      exact .inr ⟨readBuf_writeBuf_self s i.castSucc e, he, hr, hi, rfl⟩
    · exact .inl (readBuf_writeBuf_of_ne s i.castSucc _ e fun h => hik (Fin.castSucc_injective _ h))

/-- What the gap entry holds after `Decode(e)`: what it held, or `e` by the FRAME-END row in a frame (R73). -/
theorem decodeEdge_gapEntry (e : Half) (s : State) :
    (s.decodeEdge e).readBuf gapEntry = s.readBuf gapEntry ∨
    ((s.decodeEdge e).readBuf gapEntry = e ∧ 2500 < e.toNat ∧ s.ready = false ∧ (∃ j, s.idx = .inFrame j) ∧
      (s.decodeEdge e).ready = true ∧ (s.decodeEdge e).idx = .inFrame 0) := by
  obtain ⟨h, _⟩ | ⟨h, _⟩ | ⟨h, hr, hj, he⟩ | ⟨i, h, _⟩ := decodeEdge_cases e s <;> rw [h]
  · exact .inl rfl
  · exact .inl rfl
  · exact .inr ⟨readBuf_writeBuf_self s gapEntry e, he, hr, hj, rfl, rfl⟩
  · exact .inl (readBuf_writeBuf_of_ne s i.castSucc _ e i.castSucc_ne_last)

/-- EDGE acts on the frame as `Decode` of the elapsed µs (R77). -/
theorem edge_sameFrame (s : State) : SameFrame (s.decodeEdge (usOfTicks s.cnt)) s.edge := by
  have h : SameFrame s { s with cnt := 0#16 } := ⟨rfl, rfl, rfl⟩
  exact h.decodeEdge (usOfTicks s.cnt)

/-! ### One operation -/

/-- The operation is an edge, and `e` is the interval it hands to the decoder (R77, R78). -/
def HandsToDecoder (i : Instr) (s : State) (e : Half) : Prop := (i = .edge ∧ e = usOfTicks s.cnt) ∨ i = .edgeE e

theorem HandsToDecoder.inDecoderContext {i : Instr} {s : State} {e : Half} (h : HandsToDecoder i s e) :
    inDecoderContext i = true := by
  obtain ⟨rfl, _⟩ | rfl := h <;> rfl

/-- Everything one operation can do to the frame: nothing, `Decode(e)`, RELEASE, or RESET. -/
theorem exec_frame_cases {i : Instr} {s t : State} (h : exec i s = .next t) :
    SameFrame s t ∨
    (∃ e, HandsToDecoder i s e ∧ SameFrame (s.decodeEdge e) t) ∨
    ((∃ d, i = .release d) ∧ t = s.release) ∨
    (i = .reset ∧ t = s.resetBlock) := by
  obtain ⟨_, rfl⟩ | ⟨hi, rfl⟩ | ⟨e, hi, rfl⟩ | hreset | ⟨_, _, v, rfl⟩ | hrelease | ⟨_, _, rfl⟩ := exec_cases h
  · exact .inl ⟨rfl, rfl, rfl⟩
  · exact .inr (.inl ⟨_, .inl ⟨hi, rfl⟩, edge_sameFrame s⟩)
  · exact .inr (.inl ⟨e, .inr hi, .refl _⟩)
  · exact .inr (.inr (.inr hreset))
  · exact .inl ⟨rfl, rfl, rfl⟩
  · exact .inr (.inr (.inl hrelease))
  · exact .inl (.refl _)

/-! ### One clock cycle -/

theorem cycle_of_rst {p : PortIn} (h : p.rst = true) (s : State) : cycle p s = s.resetBlock := by simp [cycle, h]

theorem cycle_of_not_rst {p : PortIn} (h : p.rst = false) (s : State) :
    cycle p s = (((s.undriven.hostAccess p).tickStrobe p).edgeIfRise s.rise).shiftSampler p.ppmIn := by
  simp [cycle, h]

/-- A host access keeps the frame or is the RELEASE of a write of CTRL. -/
theorem hostAccess_frame_cases (p : PortIn) (s : State) :
    SameFrame s (s.hostAccess p) ∨ (portsReleaseOrReset p = true ∧ s.hostAccess p = s.release) := by
  obtain ⟨h, _⟩ | ⟨h, hreq, hwe, ha, hbit⟩ | ⟨h, _⟩ := hostAccess_cases p s
  · rw [h]; exact .inl ⟨rfl, rfl, rfl⟩
  · exact .inr ⟨by simp [portsReleaseOrReset, hreq, hwe, ha, hbit], h⟩
  · rw [h]; exact .inl (.refl s)

theorem tickStrobe_sameFrame (p : PortIn) (s : State) : SameFrame s (s.tickStrobe p) := by
  unfold State.tickStrobe
  split
  · exact ⟨rfl, rfl, rfl⟩
  · exact .refl s

theorem edgeIfRise_frame_cases (rise : Bool) (s : State) :
    SameFrame s (s.edgeIfRise rise) ∨ ∃ c, SameFrame (s.decodeEdge (usOfTicks c)) (s.edgeIfRise rise) := by
  cases rise with
  | false => exact .inl (.refl s)
  | true => exact .inr ⟨s.cnt, edge_sameFrame s⟩

/-- Everything one clock cycle can do to the frame: RESET; or first nothing or RELEASE, and then nothing or `Decode` of a
timed interval (R101). -/
theorem cycle_frame_cases (p : PortIn) (s : State) :
    (portsReleaseOrReset p = true ∧ cycle p s = s.resetBlock) ∨
    ∃ u, (SameFrame s u ∨ (portsReleaseOrReset p = true ∧ SameFrame s.release u)) ∧
      (SameFrame u (cycle p s) ∨ ∃ c, SameFrame (u.decodeEdge (usOfTicks c)) (cycle p s)) := by
  cases hrst : p.rst with
  | true => exact .inl ⟨by simp [portsReleaseOrReset, hrst], cycle_of_rst hrst s⟩
  | false =>
    have htick := tickStrobe_sameFrame p (s.undriven.hostAccess p)
    refine .inr ⟨(s.undriven.hostAccess p).tickStrobe p, ?_, ?_⟩
    · obtain h | ⟨hp, h⟩ := hostAccess_frame_cases p s.undriven
      · exact .inl (SameFrame.trans ⟨h.buf, h.ready, h.idx⟩ htick)
      · rw [h] at htick ⊢
        exact .inr ⟨hp, htick.buf, htick.ready, htick.idx⟩
    · rw [cycle_of_not_rst hrst]
      obtain h | ⟨c, h⟩ := edgeIfRise_frame_cases s.rise ((s.undriven.hostAccess p).tickStrobe p)
      · exact .inl ⟨h.buf, h.ready, h.idx⟩
      · exact .inr ⟨c, h.buf, h.ready, h.idx⟩

/-! ### What the parts of a clock cycle leave alone -/

@[simp] theorem hostAccess_s1 (p : PortIn) (s : State) : (s.hostAccess p).s1 = s.s1 := by
  obtain ⟨h, _⟩ | ⟨h, _⟩ | ⟨h, _⟩ := hostAccess_cases p s <;> simp [h]

@[simp] theorem hostAccess_s2 (p : PortIn) (s : State) : (s.hostAccess p).s2 = s.s2 := by
  obtain ⟨h, _⟩ | ⟨h, _⟩ | ⟨h, _⟩ := hostAccess_cases p s <;> simp [h]

@[simp] theorem hostAccess_inputs (p : PortIn) (s : State) : (s.hostAccess p).inputs = s.inputs := by
  obtain ⟨h, _⟩ | ⟨h, _⟩ | ⟨h, _⟩ := hostAccess_cases p s <;> simp [h]

@[simp] theorem tickStrobe_s1 (p : PortIn) (s : State) : (s.tickStrobe p).s1 = s.s1 := by
  unfold State.tickStrobe; split <;> rfl

@[simp] theorem tickStrobe_s2 (p : PortIn) (s : State) : (s.tickStrobe p).s2 = s.s2 := by
  unfold State.tickStrobe; split <;> rfl

@[simp] theorem tickStrobe_inputs (p : PortIn) (s : State) : (s.tickStrobe p).inputs = s.inputs := by
  unfold State.tickStrobe; split <;> rfl

@[simp] theorem edgeIfRise_s1 (rise : Bool) (s : State) : (s.edgeIfRise rise).s1 = s.s1 := by
  cases rise <;> simp [State.edgeIfRise]

@[simp] theorem edgeIfRise_s2 (rise : Bool) (s : State) : (s.edgeIfRise rise).s2 = s.s2 := by
  cases rise <;> simp [State.edgeIfRise]

@[simp] theorem edgeIfRise_inputs (rise : Bool) (s : State) : (s.edgeIfRise rise).inputs = s.inputs := by
  cases rise <;> simp [State.edgeIfRise]

@[simp] theorem cycle_inputs (p : PortIn) (s : State) : (cycle p s).inputs = s.inputs := by
  cases hrst : p.rst with
  | true => simp [cycle_of_rst hrst]
  | false => simp [cycle_of_not_rst hrst]

/-- A step takes the stimulus in front of the list and leaves the others. -/
theorem step_inputs {s t : State} (h : step s = .next t) : t.inputs = s.inputs.tail := by
  obtain ⟨hin, rfl⟩ | ⟨w, rest, i, hin, _, hexec⟩ | ⟨p, rest, hin, rfl⟩ | ⟨rest, hin, hmove⟩ | ⟨ms, rest, hin, rfl⟩ :=
    step_cases h
  · simp [hin]
  · simp [hin, (exec_agents hexec).1]
  · simp [hin]
  · obtain ⟨_, rfl⟩ | ⟨i, u, _, hexec, rfl⟩ := reporterMove_cases hmove
    · simp [hin]
    · simp [hin, (exec_agents hexec).1]
  · simp [hin, reporterWait]

end Sys2Proof.Machine
end

section
/-! PROOFS. INV1, INV3 and the timer's bound on `buf[8]` (10_state.md R25, R27): three updates keep each of them, so every
operation, cycle, move of the Reporter, step and run does. -/

namespace Sys2Proof

theorem decodeEvt_eq_edgeE {sub : BitVec 2} {a : Addr} {d e : Half} (h : decodeEvt sub a d = .op (.edgeE e)) :
    sub = 0b10#2 ∧ a = 0#4 ∧ d = e := by
  unfold decodeEvt at h
  split_ifs at h <;> simp_all

theorem decodeRd_ne_edgeE (sub : BitVec 2) (a : Addr) (d e : Half) : decodeRd sub a d ≠ .op (.edgeE e) := by
  unfold decodeRd
  split_ifs <;> simp

theorem decodeWr_ne_edgeE (sub : BitVec 2) (a : Addr) (d e : Half) : decodeWr sub a d ≠ .op (.edgeE e) := by
  unfold decodeWr
  split_ifs <;> simp

/-- The only word that spells EDGE_E with `e` is the encoded one. -/
theorem decode_eq_edgeE {w : OpWord} {e : Half} (h : decode w = .op (.edgeE e)) : w = encode (.edgeE e) := by
  unfold decode at h
  split_ifs at h with hevt hrd hwr
  · obtain ⟨hsub, ha, hd⟩ := decodeEvt_eq_edgeE h
    rw [encode, evtWord_eq, ← wordOf_fields w, hevt, hsub, ha, hd]
  · exact absurd h (decodeRd_ne_edgeE _ _ _ _)
  · exact absurd h (decodeWr_ne_edgeE _ _ _ _)

end Sys2Proof

namespace Sys2Proof.Machine

/-- `P` is a property of the frame that `Decode` of an allowed interval, RELEASE and RESET keep; every interval of the Edge
Timer is allowed. -/
structure FrameInvariant (allowed : Half → Prop) (P : State → Prop) : Prop where
  timed : ∀ c, allowed (usOfTicks c)
  congr : ∀ {s t}, P s → SameFrame s t → P t
  decodeEdge : ∀ {e s}, allowed e → P s → P (s.decodeEdge e)
  release : ∀ {s}, P s → P s.release
  resetBlock : ∀ s : State, P s.resetBlock

/-- If the stimulus is an EDGE_E word, its interval is allowed. -/
def EdgesWithin (allowed : Half → Prop) (x : Stimulus) : Prop := ∀ e, x = .word (encode (.edgeE e)) → allowed e

/-- The Reporter uses host operations only (42_host_interface.md Part 2). -/
theorem request_inHostContext {r : Reporter} {i : Instr} (h : r.request = some i) : inHostContext i = true := by
  unfold Reporter.request at h
  split at h
  · cases h; rfl
  · split at h <;> (cases h; rfl)
  · cases h; rfl
  · cases h

namespace FrameInvariant

variable {allowed : Half → Prop} {P : State → Prop} (K : FrameInvariant allowed P) {s t : State}
include K

theorem keptByExec {i : Instr} (hi : ∀ e, i = .edgeE e → allowed e) (h : exec i s = .next t) (hs : P s) : P t := by
  obtain hsame | ⟨e, hdec, hsame⟩ | ⟨_, rfl⟩ | ⟨_, rfl⟩ := exec_frame_cases h
  · exact K.congr hs hsame
  · have he : allowed e := by
      obtain ⟨_, rfl⟩ | hE := hdec
      · exact K.timed s.cnt
      · exact hi e hE
    exact K.congr (K.decodeEdge he hs) hsame
  · exact K.release hs
  · exact K.resetBlock s

theorem keptByCycle (p : PortIn) (hs : P s) : P (cycle p s) := by
  obtain ⟨_, h⟩ | ⟨u, hu, ht⟩ := cycle_frame_cases p s
  · rw [h]; exact K.resetBlock s
  · have hPu : P u := by
      obtain hsame | ⟨_, hsame⟩ := hu
      · exact K.congr hs hsame
      · exact K.congr (K.release hs) hsame
    obtain hsame | ⟨c, hsame⟩ := ht
    · exact K.congr hPu hsame
    · exact K.congr (K.decodeEdge (K.timed c) hPu) hsame

theorem keptByReporterMove (h : reporterMove s = .next t) (hs : P s) : P t := by
  obtain ⟨_, rfl⟩ | ⟨i, u, hreq, hexec, rfl⟩ := reporterMove_cases h
  · exact hs
  · have hu : P u := K.keptByExec (by rintro e rfl; cases request_inHostContext hreq) hexec hs
    exact K.congr hu ⟨rfl, rfl, rfl⟩

theorem keptByStep (hx : ∀ x ∈ s.inputs.head?, EdgesWithin allowed x) (h : step s = .next t) (hs : P s) : P t := by
  have hbegin (rest : List Stimulus) : P (s.beginStep rest) := K.congr hs ⟨rfl, rfl, rfl⟩
  obtain ⟨_, rfl⟩ | ⟨w, rest, i, hin, hdec, hexec⟩ | ⟨p, rest, _, rfl⟩ | ⟨rest, _, hmove⟩ | ⟨ms, rest, _, rfl⟩ :=
    step_cases h
  · exact hbegin []
  · refine K.keptByExec (fun e hi => ?_) hexec (hbegin rest)
    exact hx (.word w) (by rw [hin]; rfl) e (congrArg _ (decode_eq_edgeE (hi ▸ hdec)))
  · exact K.keptByCycle p (hbegin rest)
  · exact K.keptByReporterMove hmove (hbegin rest)
  · exact K.congr (hbegin rest) ⟨rfl, rfl, rfl⟩

theorem keptByRun {n : Nat} (hx : ∀ x ∈ s.inputs, EdgesWithin allowed x)
    (h : Host.Core.run core n s = .next t) (hs : P s) : P t := by
  induction n generalizing s with
  | zero => cases h; exact hs
  | succ n ih =>
    obtain ⟨u, hstep, hrun⟩ := run_succ_inv h
    have hu : P u := K.keptByStep (fun x hm => hx x (List.mem_of_mem_head? hm)) hstep hs
    refine ih (fun x hm => hx x ?_) hrun hu
    rw [step_inputs hstep] at hm
    exact List.mem_of_mem_tail hm

/-- What RESET establishes and every step keeps holds at every point of a run from reset (log 10). -/
theorem ofReachable {n : Nat} {inputs : List Stimulus} (hx : ∀ x ∈ inputs, EdgesWithin allowed x)
    (h : Host.Core.run core n { State.reset with inputs := inputs } = .next t) : P t :=
  K.keptByRun hx h (K.congr (K.resetBlock State.reset) ⟨rfl, rfl, rfl⟩)

end FrameInvariant

/-! ### INV1 and INV3 -/

theorem ReadyAtStart.decodeEdge {s : State} (h : ReadyAtStart s) (e : Half) : ReadyAtStart (s.decodeEdge e) := by
  obtain ⟨hs, _⟩ | ⟨hs, _⟩ | ⟨hs, _⟩ | ⟨i, hs, hr, _⟩ := decodeEdge_cases e s <;> rw [hs]
  · exact h
  · exact fun _ => rfl
  · exact fun _ => rfl
  · exact fun hready => absurd (hr.symm.trans hready) Bool.false_ne_true

theorem ChannelsInRange.decodeEdge {s : State} (h : ChannelsInRange s) (e : Half) :
    ChannelsInRange (s.decodeEdge e) := by
  intro k
  obtain hk | ⟨hk, he, _⟩ := decodeEdge_channelEntry e s k <;> rw [hk]
  · exact h k
  · exact he

theorem GapInRange.decodeEdge {s : State} (h : GapInRange s) (e : Half) : GapInRange (s.decodeEdge e) := by
  unfold GapInRange
  obtain hgap | ⟨hgap, he, _⟩ := decodeEdge_gapEntry e s <;> rw [hgap]
  · exact h
  · exact .inr he

theorem Inv.congr {s t : State} (hs : Inv s) (h : SameFrame s t) : Inv t where
  readyAtStart hr := h.idx.trans (hs.readyAtStart (h.ready.symm.trans hr))
  channels k := by rw [h.readBuf_eq]; exact hs.channels k
  gap := by unfold GapInRange; rw [h.readBuf_eq]; exact hs.gap

theorem inv_resetBlock (s : State) : Inv s.resetBlock where
  readyAtStart := nofun
  channels k := by simp
  gap := .inl (by simp)

/-- INV1 and INV3 stand whatever intervals the decoder is given. -/
theorem inv_frameInvariant : FrameInvariant (fun _ => True) Inv where
  timed _ := trivial
  congr := Inv.congr
  decodeEdge := fun _ h => ⟨h.readyAtStart.decodeEdge _, h.channels.decodeEdge _, h.gap.decodeEdge _⟩
  release := fun h => ⟨nofun, h.channels, h.gap⟩
  resetBlock := inv_resetBlock

/-- Settles O22: the reset state is what RESET makes of any state. -/
theorem resetStateMeetsTheInvariants : Obligations.ResetStateMeetsTheInvariants := inv_resetBlock State.reset

/-- Settles O23: INV1 and INV3 are properties of the frame that `Decode` of any interval, RELEASE and RESET keep. -/
theorem everyStepKeepsTheInvariants : Obligations.EveryStepKeepsTheInvariants := fun _ _ hs hstep =>
  inv_frameInvariant.keptByStep (fun _ _ _ _ => trivial) hstep hs

/-! ### The timer's bound on the gap -/

/-- The bound of R27 on `buf[8]` that a 16-bit count of half-µs ticks gives. -/
def GapWithinTimer (s : State) : Prop := (s.readBuf gapEntry).toNat ≤ 32767

/-- The bound stands as long as the decoder is given no longer interval than the timer can measure. -/
theorem gapWithinTimer_frameInvariant : FrameInvariant (fun e => e.toNat ≤ 32767) GapWithinTimer where
  timed := usOfTicks_le
  congr := fun hs h => by unfold GapWithinTimer; rwa [h.readBuf_eq]
  decodeEdge := fun {e s} he hs => by
    unfold GapWithinTimer
    obtain hgap | ⟨hgap, _⟩ := decodeEdge_gapEntry e s <;> rw [hgap]
    · exact hs
    · exact he
  release := id
  resetBlock := fun s => by simp [GapWithinTimer]

/-- Settles O56: without an EDGE_E word the only intervals are the timer's, and those are at most 32767. -/
theorem everyStepKeepsTheTimerBoundOnTheGap : Obligations.EveryStepKeepsTheTimerBoundOnTheGap :=
  fun _ _ hs hx hstep =>
    gapWithinTimer_frameInvariant.keptByStep (fun x hm e he => absurd he (hx x hm e)) hstep hs

/-- Settles O24: the invariants of O23 and O56, from reset along the run. -/
theorem everyReachableStateMeetsTheInvariants : Obligations.EveryReachableStateMeetsTheInvariants := by
  intro inputs n t hrun
  refine ⟨inv_frameInvariant.ofReachable (fun _ _ _ _ => trivial) hrun, ?_, fun hx => ?_⟩
  · exact Nat.le_of_lt_succ (t.buf[8]).isLt
  · exact gapWithinTimer_frameInvariant.ofReachable (fun x hm e he => absurd (he ▸ hm) (hx e)) hrun

end Sys2Proof.Machine
end

section
/-! PROOFS. Who may change which element of the block, the counter, and reset (10_state.md). -/

namespace Sys2Proof.Machine

/-! ### The frame -/

/-- Settles O16: an operation other than these keeps the whole frame, the index in it. -/
theorem onlyDecoderReleaseAndResetWriteTheIndex : Obligations.OnlyDecoderReleaseAndResetWriteTheIndex := by
  intro i s t h hne
  obtain hsame | ⟨e, hdec, _⟩ | ⟨hrel, _⟩ | ⟨hreset, _⟩ := exec_frame_cases h
  · exact absurd hsame.idx hne
  · exact .inl hdec.inDecoderContext
  · exact .inr (.inl hrel)
  · exact .inr (.inr hreset)

/-- With `ready = 1` the decoder drops every interval (R70). -/
theorem SameFrame.of_decodeEdge_ready {s t : State} {e : Half} (hr : s.ready = true)
    (h : SameFrame (s.decodeEdge e) t) : SameFrame s t := by
  rwa [decodeEdge_ready hr] at h

/-- While `ready = 1`, an operation keeps the frame, or releases or resets. -/
theorem exec_sameFrame_of_ready {i : Instr} {s t : State} (hr : s.ready = true) (h : exec i s = .next t) :
    SameFrame s t ∨ (∃ d, i = .release d) ∨ i = .reset := by
  obtain hsame | ⟨e, _, hsame⟩ | ⟨hrel, _⟩ | ⟨hreset, _⟩ := exec_frame_cases h
  · exact .inl hsame
  · exact .inl (hsame.of_decodeEdge_ready hr)
  · exact .inr (.inl hrel)
  · exact .inr (.inr hreset)

/-- Settles O17: RELEASE and RESET leave `ready = 0`, and the decoder drops every interval at `ready = 1`. -/
theorem onlyDecoderSetsReadyOnlyReleaseAndResetClearIt :
    Obligations.OnlyDecoderSetsReadyOnlyReleaseAndResetClearIt := by
  intro i s t h
  refine ⟨fun hs ht => ?_, fun hs ht => ?_⟩
  · obtain hsame | ⟨e, hdec, _⟩ | ⟨_, rfl⟩ | ⟨_, rfl⟩ := exec_frame_cases h
    · rw [hsame.ready, hs] at ht; cases ht
    · exact hdec.inDecoderContext
    · cases ht
    · cases ht
  · obtain hsame | hother := exec_sameFrame_of_ready hs h
    · rw [hsame.ready, hs] at ht; cases ht
    · exact hother

/-- Settles O19: an entry differs after `Decode` only by the CHANNEL row or the FRAME-END row, and no other operation but
RESET writes the buffer. -/
theorem entriesAreWrittenInFrameOrder : Obligations.EntriesAreWrittenInFrameOrder := by
  intro i s t hreset h
  obtain hsame | ⟨e, _, hsame⟩ | ⟨_, rfl⟩ | ⟨hi, _⟩ := exec_frame_cases h
  · exact ⟨fun k hk => absurd (hsame.readBuf_eq (entryOfChannel k)) hk,
      fun hgap => absurd (hsame.readBuf_eq gapEntry) hgap⟩
  · refine ⟨fun k hk => ?_, fun hgap => ?_⟩
    · obtain heq | ⟨_, _, hr, hi, hi'⟩ := decodeEdge_channelEntry e s k
      · exact absurd ((hsame.readBuf_eq (entryOfChannel k)).trans heq) hk
      · exact ⟨hr, hi, hsame.idx.trans hi'⟩
    · obtain heq | ⟨_, _, hr, hj, hr', hi'⟩ := decodeEdge_gapEntry e s
      · exact absurd ((hsame.readBuf_eq gapEntry).trans heq) hgap
      · exact ⟨hr, hj, hsame.ready.trans hr', hsame.idx.trans hi'⟩
  · exact ⟨fun k hk => absurd rfl hk, fun hgap => absurd rfl hgap⟩
  · exact absurd hi hreset

/-- Every operation completes (R99). -/
theorem exec_completes (i : Instr) (s : State) : ∃ t, exec i s = .next t := by
  cases i <;> exact ⟨_, rfl⟩

/-- Settles O25: the frame is kept, and EDGE at `ready = 1` is a dropped interval that restarts the timer. -/
theorem readyProtectsTheFrame : Obligations.ReadyProtectsTheFrame := by
  intro s hr
  refine ⟨fun i hi => ?_, rfl, ?_⟩
  · obtain ⟨t, h⟩ := exec_completes i s
    obtain hsame | ⟨d, rfl⟩ | rfl := exec_sameFrame_of_ready hr h
    · exact ⟨t, h, hsame.buf, hsame.ready.trans hr, hsame.idx⟩
    · cases hi
    · cases hi
  · calc exec .edge s
        _ = .next (State.decodeEdge (usOfTicks s.cnt) { s with cnt := 0#16 }) := rfl
        _ = .next { s with cnt := 0#16 } := by rw [decodeEdge_ready (s := { s with cnt := 0#16 }) hr]

/-- Settles O47: without RELEASE and RESET a cycle can only hand a timed interval to the decoder, which drops it. -/
theorem readyProtectsTheFrameInEveryCycle : Obligations.ReadyProtectsTheFrameInEveryCycle := by
  intro p s hr hp
  have hsame : SameFrame s (cycle p s) := by
    obtain ⟨hp', _⟩ | ⟨u, hu | ⟨hp', _⟩, ht⟩ := cycle_frame_cases p s
    · exact absurd (hp.symm.trans hp') Bool.false_ne_true
    · obtain ht | ⟨c, ht⟩ := ht
      · exact hu.trans ht
      · exact hu.trans (ht.of_decodeEdge_ready (hu.ready.trans hr))
    · exact absurd (hp.symm.trans hp') Bool.false_ne_true
  exact ⟨hsame.buf, hsame.ready.trans hr, hsame.idx⟩

/-! ### The counter -/

theorem ticksAfter_host {i : Instr} (h : inHostContext i = true) (n : Nat) : ticksAfter n i = n := by
  cases i <;> cases h <;> rfl

/-- One operation counts as `ticksAfter` says, modulo 2^16 (R28). -/
theorem exec_cnt {i : Instr} {s t : State} {n : Nat} (hn : s.cnt = BitVec.ofNat 16 n) (h : exec i s = .next t) :
    t.cnt = BitVec.ofNat 16 (ticksAfter n i) := by
  obtain ⟨rfl, rfl⟩ | ⟨rfl, rfl⟩ | ⟨e, rfl, rfl⟩ | ⟨rfl, rfl⟩ | ⟨hi, _, v, rfl⟩ | ⟨⟨d, rfl⟩, rfl⟩ | ⟨hi, _, rfl⟩ :=
    exec_cases h
  · rw [tick_cnt, hn, ticksAfter, BitVec.ofNat_add]
  · exact edge_cnt s
  · rw [decodeEdge_cnt, hn, ticksAfter]
  · rfl
  · rw [driveRdata_cnt, hn, ticksAfter_host hi]
  · rw [release_cnt, hn, ticksAfter]
  · rw [hn, ticksAfter_host hi]

/-- Settles O15, by induction on the operations with the count before them generalised. -/
theorem counterCountsTicksSinceEdgeOrReset : Obligations.CounterCountsTicksSinceEdgeOrReset := by
  refine ⟨rfl, fun ops => ?_⟩
  induction ops with
  | nil => exact fun n s hn => ⟨s, rfl, hn⟩
  | cons i ops ih =>
    intro n s hn
    obtain ⟨u, hu⟩ := exec_completes i s
    obtain ⟨t, ht, hcnt⟩ := ih (ticksAfter n i) u (exec_cnt hn hu)
    exact ⟨t, by rw [runOps_cons, hu, andThen_next, ht], hcnt⟩

/-! ### Reset and the sampler -/

/-- Settles O21: the values of the definition, element by element, and RESET writes the same ones. -/
theorem resetStateHasTheStatedValues : Obligations.ResetStateHasTheStatedValues :=
  ⟨readBuf_resetBlock State.reset, rfl, rfl, rfl, rfl, rfl, rfl, rfl, fun _ => rfl⟩

/-- The sampler holds a high input: both stages and the previous sample are 1. -/
def SamplerHigh (s : State) : Prop := s.s1 = true ∧ s.s2 = true ∧ s.prev = true

theorem samplerHigh_resetBlock (s : State) : SamplerHigh s.resetBlock := ⟨rfl, rfl, rfl⟩

theorem SamplerHigh.rise_eq_false {s : State} (h : SamplerHigh s) : s.rise = false := by
  obtain ⟨_, _, hprev⟩ := h
  simp [State.rise, hprev]

theorem SamplerHigh.cycle {s : State} {p : PortIn} (h : SamplerHigh s) (hrst : p.rst = false) (hppm : p.ppmIn = true) :
    SamplerHigh (cycle p s) := by
  obtain ⟨h1, h2, _⟩ := h
  rw [cycle_of_not_rst hrst]
  exact ⟨hppm, by simp [h1], by simp [h2]⟩

theorem SamplerHigh.runCycles {ps : List PortIn} (hps : ∀ p ∈ ps, p.rst = false ∧ p.ppmIn = true) {s : State}
    (h : SamplerHigh s) : SamplerHigh (runCycles ps s) := by
  induction ps generalizing s with
  | nil => exact h
  | cons p ps ih =>
    obtain ⟨⟨hrst, hppm⟩, hps⟩ := List.forall_mem_cons.1 hps
    exact ih hps (h.cycle hrst hppm)

/-- Settles O46: RESET leaves the sampler high, and cycles with a high input keep it so. -/
theorem highInputAfterResetIsNoEdge : Obligations.HighInputAfterResetIsNoEdge := by
  intro s t ps h hps
  cases h
  exact ((samplerHigh_resetBlock s).runCycles hps).rise_eq_false

end Sys2Proof.Machine
end

section
/-! PROOFS. The register map (20_memory.md): what host accesses do in every state, and what they show of a ready frame. -/

namespace Sys2Proof.Machine

/-! ### A ready frame, read again and again -/

/-- The register map shows the frame and nothing else (R30). -/
theorem SameFrame.readReg_eq {s t : State} (h : SameFrame s t) (a : Addr) : t.readReg a = s.readReg a :=
  readReg_congr h.buf h.ready h.idx a

/-- While `ready = 1`, an operation that neither releases nor resets keeps the frame (R44). -/
theorem exec_sameFrame_of_not_releasing {i : Instr} {s t : State} (hr : s.ready = true)
    (hi : releasesOrResets i = false) (h : exec i s = .next t) : SameFrame s t := by
  obtain hsame | ⟨d, rfl⟩ | rfl := exec_sameFrame_of_ready hr h
  · exact hsame
  · cases hi
  · cases hi

/-- So do any number of such operations. -/
theorem runOps_sameFrame_of_ready {ops : List Instr} {s : State} (hr : s.ready = true)
    (hops : ∀ i ∈ ops, releasesOrResets i = false) : ∃ t, runOps ops s = .next t ∧ SameFrame s t := by
  induction ops generalizing s with
  | nil => exact ⟨s, rfl, .refl s⟩
  | cons i ops ih =>
    obtain ⟨hi, hops⟩ := List.forall_mem_cons.1 hops
    obtain ⟨u, hu⟩ := exec_completes i s
    have hsu : SameFrame s u := exec_sameFrame_of_not_releasing hr hi hu
    obtain ⟨t, ht, hut⟩ := ih (hsu.ready.trans hr) hops
    exact ⟨t, by rw [runOps_cons, hu, andThen_next, ht], hsu.trans hut⟩

/-- Settles O26: such operations keep the frame, and a register's value is a function of the frame. -/
theorem handshakeReadsOneFrameSnapshot : Obligations.HandshakeReadsOneFrameSnapshot := by
  intro ops s hr hops
  obtain ⟨t, ht, hsame⟩ := runOps_sameFrame_of_ready hr hops
  exact ⟨t, ht, hsame.ready.trans hr, hsame.readReg_eq⟩

/-! ### STATUS -/

theorem statusWord_unsync : statusWord .unsync false = 0xFF00#16 := by decide

theorem statusWord_inFrame : ∀ i : Fin 9, statusWord (.inFrame i) false = BitVec.ofNat 16 (i.val * 256) := by decide

theorem statusWord_ready_start : statusWord (.inFrame 0) true = 0x0001#16 := by decide

/-- `STATUS[0]` is the Ready Flag, whatever the index (R34). -/
theorem statusWord_getLsbD_zero (idx : ChanIndex) (ready : Bool) : (statusWord idx ready).getLsbD 0 = ready := by
  rw [statusWord, BitVec.getLsbD_append]
  simp [readyField]

/-- Settles O27: the two words of an unready block, and INV1 for the third. -/
theorem statusReadsOnlyTheListedValues : Obligations.StatusReadsOnlyTheListedValues := by
  intro s hinv
  rw [readReg_status]
  cases hr : s.ready with
  | true => exact .inr ⟨rfl, by rw [hinv hr, statusWord_ready_start]⟩
  | false =>
    cases hi : s.idx with
    | unsync => exact .inl ⟨rfl, .inl statusWord_unsync⟩
    | inFrame i => exact .inl ⟨rfl, .inr ⟨i, statusWord_inFrame i⟩⟩

/-! ### One host operation -/

/-- What a host operation is, the same in every state: the read of one register, RELEASE, or no effect. -/
theorem exec_host_cases {i : Instr} (h : inHostContext i = true) :
    (∃ r : Reg, ∀ s, exec i s = .next (s.driveRdata (s.regValue r))) ∨
    (∃ d, i = .release d) ∨
    ∀ s, exec i s = .next s := by
  cases i with
  | tick => cases h
  | edge => cases h
  | edgeE e => cases h
  | reset => cases h
  | rdCh k => exact .inl ⟨.ch k, fun _ => rfl⟩
  | rdGap => exact .inl ⟨.gap, fun _ => rfl⟩
  | rdStatus => exact .inl ⟨.status, fun _ => rfl⟩
  | rdCtrl => exact .inl ⟨.ctrl, fun _ => rfl⟩
  | rdRsvdB => exact .inl ⟨.reserved, fun _ => rfl⟩
  | rdRsvdCf a => exact .inl ⟨.reserved, fun _ => rfl⟩
  | wrRoCh a d => exact .inr (.inr fun _ => rfl)
  | wrRoGs a d => exact .inr (.inr fun _ => rfl)
  | release d => exact .inr (.inl ⟨d, rfl⟩)
  | wrCtrlNop d => exact .inr (.inr fun _ => rfl)
  | wrRsvdB d => exact .inr (.inr fun _ => rfl)
  | wrRsvdCf a d => exact .inr (.inr fun _ => rfl)

/-- "Reads have no side effects" (R40): what a register reads does not depend on `rdata`. -/
@[simp] theorem regValue_driveRdata (s : State) (v : Half) (r : Reg) : (s.driveRdata v).regValue r = s.regValue r := by
  cases r <;> rfl

/-- Settles O20: a read finds the same register and drives `rdata` as before, and RELEASE finds its own effect. -/
theorem hostAccessesAreIdempotent : Obligations.HostAccessesAreIdempotent := by
  intro i s hi
  obtain ⟨r, hread⟩ | ⟨d, rfl⟩ | hnone := exec_host_cases hi
  · refine ⟨_, hread s, ?_, fun _ => rfl⟩
    rw [hread, regValue_driveRdata]
    rfl
  · exact ⟨s.release, rfl, rfl, nofun⟩
  · exact ⟨s, hnone s, hnone s, fun _ => rfl⟩

/-! ### The words of the host accesses -/

/-- RD @a drives `rdata` with the register at `a`, at each of the 16 addresses (R33, R61). -/
theorem execWord_rdWord (a : Addr) (s : State) : execWord (rdWord a) s = .next (s.driveRdata (s.readReg a)) := by
  simp only [execWord, decode_rdWord, decodeRd, State.readReg, regAt, ne_eq, not_true_eq_false, or_self, if_false]
  split_ifs <;> rfl

theorem decodeWr_ctrl (v : Half) :
    decodeWr 0#2 0xA#4 v = if v.getLsbD 0 then .op (.release v) else .op (.wrCtrlNop v) := rfl

/-- WR @a, #v acts as the register map says, at each of the 16 addresses (R33, R61). -/
theorem execWord_wrWord (a : Addr) (v : Half) (s : State) : execWord (wrWord a v) s = .next (s.writeReg a v) := by
  rw [execWord, decode_wrWord]
  by_cases ha : a = 0xA#4
  · subst ha
    rw [decodeWr_ctrl, writeReg_ctrl, releaseBit]
    split_ifs <;> rfl
  · rw [writeReg_ne_ctrl s ha]
    simp only [decodeWr, ha, ne_eq, not_true_eq_false, if_false]
    split_ifs <;> rfl

/-- A write is RELEASE exactly when it sets bit 0 of CTRL (R35). -/
theorem writeReg_eq (s : State) (a : Addr) (v : Half) :
    s.writeReg a v = if a = 0xA#4 ∧ releaseBit v = true then s.release else s := by
  obtain ⟨h, hrel⟩ | ⟨h, hrel⟩ := writeReg_cases s a v
  · rw [h, if_pos hrel]
  · rw [h, if_neg hrel]

theorem runWords_singleton (w : OpWord) (s : State) : runWords [w] s = execWord w s := by
  rw [runWords_cons]
  cases execWord w s <;> rfl

/-- Settles O40: the map of reads, the writes, and the words of both. -/
theorem registerMapReadsAndWrites : Obligations.RegisterMapReadsAndWrites := by
  intro s
  refine ⟨readReg_channel s, rfl, rfl, rfl, fun a ha => readReg_reserved s ha, fun a v => ⟨writeReg_eq s a v, ?_, ?_⟩⟩
  · exact (runWords_singleton (rdWord a) s).trans (execWord_rdWord a s)
  · exact (runWords_singleton (wrWord a v) s).trans (execWord_wrWord a v s)

/-! ### The host access of a clock cycle -/

@[simp] theorem tickStrobe_rdata (p : PortIn) (s : State) : (s.tickStrobe p).rdata = s.rdata := by
  unfold State.tickStrobe; split <;> rfl

@[simp] theorem edgeIfRise_rdata (rise : Bool) (s : State) : (s.edgeIfRise rise).rdata = s.rdata := by
  cases rise <;> simp [State.edgeIfRise]

@[simp] theorem readReg_undriven (s : State) (a : Addr) : s.undriven.readReg a = s.readReg a :=
  readReg_congr rfl rfl rfl a

/-- In a cycle without reset `rdata` is what the host access left there: the tick and the edge come later and leave it. -/
theorem cycle_rdata_of_not_rst {p : PortIn} (h : p.rst = false) (s : State) :
    (cycle p s).rdata = (s.undriven.hostAccess p).rdata := by
  rw [cycle_of_not_rst h, shiftSampler_rdata, edgeIfRise_rdata, tickStrobe_rdata]

/-- Settles O42: RESET clears `rdata`, and else the host access alone drives it, from the state the cycle begins with. -/
theorem cycleReadReturnsTheStartOfTheCycle : Obligations.CycleReadReturnsTheStartOfTheCycle := by
  intro p s
  cases hrst : p.rst with
  | true => simp [cycle_of_rst hrst]
  | false =>
    rw [cycle_rdata_of_not_rst hrst]
    obtain ⟨h, hread⟩ | ⟨h, _, hwe, _⟩ | ⟨h, hnot, _⟩ := hostAccess_cases p s.undriven <;> rw [h]
    · rw [if_pos ⟨rfl, hread⟩, driveRdata_rdata, readReg_undriven]
    · simp [hwe]
    · rw [if_neg fun hh => hnot hh.2, undriven_rdata]

end Sys2Proof.Machine
end

section
/-! PROOFS. The Reporter's moves (42_host_interface.md R94 to R97), one equation per phase, and what it reports (R98). -/

namespace Sys2Proof.Machine

/-! ### The Reporter alone -/

section
variable {r : Reporter} {got : List Half} {v : Half}

theorem request_polling (h : r.phase = .polling) : r.request = some .rdStatus := by simp [Reporter.request, h]

theorem request_draining_channel (h : r.phase = .draining got) (hlen : got.length < 8) :
    r.request = some (.rdCh ⟨got.length, hlen⟩) := by simp [Reporter.request, h, hlen]

theorem request_draining_gap (h : r.phase = .draining got) (hlen : got.length = 8) : r.request = some .rdGap := by
  simp [Reporter.request, h, hlen]

theorem request_releasing (h : r.phase = .releasing) : r.request = some (.release 1#16) := by
  simp [Reporter.request, h]

theorem request_pausing {left : Nat} (h : r.phase = .pausing left) : r.request = none := by simp [Reporter.request, h]

theorem observe_polling (h : r.phase = .polling) :
    r.observe v = if v.getLsbD 0 then { r with phase := .draining [] } else r := by simp [Reporter.observe, h]

theorem observe_draining_channel (h : r.phase = .draining got) (hlen : got.length < 8) :
    r.observe v = { r with phase := .draining (got ++ [v]) } := by
  simp [Reporter.observe, h, hlen]

theorem observe_draining_gap (h : r.phase = .draining got) (hlen : got.length = 8) :
    r.observe v = ⟨.releasing, r.reports ++ [got ++ [v]]⟩ := by simp [Reporter.observe, h, hlen]

theorem observe_releasing (h : r.phase = .releasing) :
    r.observe v = { r with phase := .pausing Config.reporterPauseMs } := by simp [Reporter.observe, h]

/-- Everything the passing of time can do: nothing, the end of the pause, or a shorter pause. -/
theorem elapse_cases (r : Reporter) (ms : Nat) :
    r.elapse ms = r ∨ r.elapse ms = { r with phase := .polling } ∨
    ∃ left, r.elapse ms = { r with phase := .pausing left } := by
  cases h : r.phase with
  | polling => exact .inl (by simp [Reporter.elapse, h])
  | draining got => exact .inl (by simp [Reporter.elapse, h])
  | releasing => exact .inl (by simp [Reporter.elapse, h])
  | pausing left =>
    by_cases hle : left ≤ ms
    · exact .inr (.inl (by simp [Reporter.elapse, h, hle]))
    · exact .inr (.inr ⟨left - ms, by simp [Reporter.elapse, h, hle]⟩)

end

/-! ### The Reporter's moves on the block -/

section
variable {s : State}

theorem reporterMove_of_request {i : Instr} {u : State} (hreq : s.reporter.request = some i)
    (hexec : exec i s = .next u) : reporterMove s = .next { u with reporter := u.reporter.observe u.rdata } := by
  simp only [reporterMove, hreq, hexec, andThen_next]

/-- Polling sees `STATUS[0]`, the Ready Flag (R94). -/
theorem reporterMove_polling (h : s.reporter.phase = .polling) :
    reporterMove s = .next
      { s with
        rdata := statusWord s.idx s.ready
        reporter := if s.ready then { s.reporter with phase := .draining [] } else s.reporter } := by
  rw [reporterMove_of_request (request_polling h) rfl, driveRdata_reporter, driveRdata_rdata, observe_polling h,
    statusWord_getLsbD_zero]
  rfl

/-- With fewer than eight values read, the next channel entry is read and kept (R95). -/
theorem reporterMove_draining_channel {got : List Half} (h : s.reporter.phase = .draining got) (hlen : got.length < 8) :
    reporterMove s = .next
      { s with
        rdata := s.buf[got.length]
        reporter := { s.reporter with phase := .draining (got ++ [s.buf[got.length]]) } } := by
  rw [reporterMove_of_request (request_draining_channel h hlen) rfl, driveRdata_reporter, driveRdata_rdata,
    observe_draining_channel h hlen]
  rfl

/-- The ninth value is the gap; with it the report is complete (R95; log 11). -/
theorem reporterMove_draining_gap {got : List Half} (h : s.reporter.phase = .draining got) (hlen : got.length = 8) :
    reporterMove s = .next
      { s with rdata := s.buf[8], reporter := ⟨.releasing, s.reporter.reports ++ [got ++ [s.buf[8]]]⟩ } := by
  rw [reporterMove_of_request (request_draining_gap h hlen) rfl, driveRdata_reporter, driveRdata_rdata,
    observe_draining_gap h hlen]
  rfl

/-- RELEASE, then the pause (R96, R97). -/
theorem reporterMove_releasing (h : s.reporter.phase = .releasing) :
    reporterMove s = .next
      { s.release with reporter := { s.reporter with phase := .pausing Config.reporterPauseMs } } := by
  rw [reporterMove_of_request (request_releasing h) rfl, release_reporter, observe_releasing h]

theorem reporterMove_pausing {left : Nat} (h : s.reporter.phase = .pausing left) : reporterMove s = .next s := by
  simp only [reporterMove, request_pausing h]

end

/-! ### The invariant, phase by phase -/

section
variable {s t : State}

theorem reporterInv_polling (h : s.reporter.phase = .polling) : ReporterInv s := by simp only [ReporterInv, h]

theorem reporterInv_draining {got : List Half} (h : s.reporter.phase = .draining got) :
    ReporterInv s ↔ s.ready = true ∧ got.length ≤ 8 ∧ got = s.buf.toList.take got.length := by
  simp only [ReporterInv, h]

theorem reporterInv_releasing (h : s.reporter.phase = .releasing) :
    ReporterInv s ↔ s.ready = true ∧ s.reporter.reports.getLast? = some s.buf.toList := by
  simp only [ReporterInv, h]

theorem reporterInv_pausing {left : Nat} (h : s.reporter.phase = .pausing left) : ReporterInv s := by
  simp only [ReporterInv, h]

/-- The invariant speaks of the Reporter, and of the frame only while `ready = 1`. -/
theorem ReporterInv.of_sameFrame (hs : ReporterInv s) (hrep : t.reporter = s.reporter)
    (hframe : s.ready = true → SameFrame s t) : ReporterInv t := by
  cases hphase : s.reporter.phase with
  | polling => exact reporterInv_polling (hrep ▸ hphase)
  | draining got =>
    obtain ⟨hr, hlen, hgot⟩ := (reporterInv_draining hphase).1 hs
    have hsame := hframe hr
    exact (reporterInv_draining (hrep ▸ hphase)).2 ⟨hsame.ready.trans hr, hlen, hsame.buf ▸ hgot⟩
  | releasing =>
    obtain ⟨hr, hlast⟩ := (reporterInv_releasing hphase).1 hs
    have hsame := hframe hr
    exact (reporterInv_releasing (hrep ▸ hphase)).2 ⟨hsame.ready.trans hr, by rw [hrep, hsame.buf, hlast]⟩
  | pausing left => exact reporterInv_pausing (hrep ▸ hphase)

/-- The reports of `t` are those of `s`, or those and, at `ready = 1`, the whole buffer. -/
def AddsOnlyTheFrame (s t : State) : Prop :=
  t.reporter.reports = s.reporter.reports ∨
    (s.ready = true ∧ t.reporter.reports = s.reporter.reports ++ [s.buf.toList])

/-- One more entry read: the buffer's first entries and the next one. -/
theorem ReporterInv.next_entry {got : List Half} (hs : ReporterInv s) (hphase : s.reporter.phase = .draining got)
    (hlen : got.length < 9) : got ++ [s.buf[got.length]] = s.buf.toList.take (got.length + 1) := by
  obtain ⟨_, _, hgot⟩ := (reporterInv_draining hphase).1 hs
  have htake := List.take_append_getElem (l := s.buf.toList) (i := got.length) (by simpa using hlen)
  rwa [← hgot, Vector.getElem_toList] at htake

/-- A move of the Reporter keeps the invariant, and reports nothing but the frame. -/
theorem ReporterInv.reporterMove (hs : ReporterInv s) (h : reporterMove s = .next t) :
    ReporterInv t ∧ AddsOnlyTheFrame s t := by
  cases hphase : s.reporter.phase with
  | polling =>
    cases (reporterMove_polling hphase).symm.trans h
    cases hr : s.ready with
    | false => exact ⟨reporterInv_polling hphase, .inl rfl⟩
    | true => exact ⟨(reporterInv_draining (got := []) rfl).2 ⟨rfl, Nat.zero_le 8, rfl⟩, .inl rfl⟩
  | draining got =>
    obtain ⟨hr, hle, _⟩ := (reporterInv_draining hphase).1 hs
    have hnext := hs.next_entry hphase (Nat.lt_succ_of_le hle)
    obtain hlen | hlen := Nat.lt_or_eq_of_le hle
    · cases (reporterMove_draining_channel hphase hlen).symm.trans h
      refine ⟨(reporterInv_draining rfl).2 ⟨hr, ?_, ?_⟩, .inl rfl⟩
      · simpa using hlen
      · simpa using hnext
    · cases (reporterMove_draining_gap hphase hlen).symm.trans h
      have htake : s.buf.toList.take 9 = s.buf.toList := List.take_of_length_le (by simp)
      have hall : got ++ [s.buf[8]] = s.buf.toList := by simpa [hlen, htake] using hnext
      exact ⟨(reporterInv_releasing rfl).2 ⟨hr, by simp [hall]⟩, .inr ⟨hr, by rw [hall]⟩⟩
  | releasing =>
    cases (reporterMove_releasing hphase).symm.trans h
    exact ⟨reporterInv_pausing rfl, .inl rfl⟩
  | pausing left =>
    cases (reporterMove_pausing hphase).symm.trans h
    exact ⟨hs, .inl rfl⟩

/-- Wall-clock time matters only in the pause, of which the invariant says nothing. -/
theorem ReporterInv.reporterWait (hs : ReporterInv s) (ms : Nat) :
    ReporterInv (reporterWait ms s) ∧ AddsOnlyTheFrame s (reporterWait ms s) := by
  unfold Machine.reporterWait
  obtain h | h | ⟨left, h⟩ := elapse_cases s.reporter ms <;> rw [h]
  · exact ⟨hs, .inl rfl⟩
  · exact ⟨reporterInv_polling rfl, .inl rfl⟩
  · exact ⟨reporterInv_pausing rfl, .inl rfl⟩

end

/-! ### One step -/

@[simp] theorem hostAccess_reporter (p : PortIn) (s : State) : (s.hostAccess p).reporter = s.reporter := by
  obtain ⟨h, _⟩ | ⟨h, _⟩ | ⟨h, _⟩ := hostAccess_cases p s <;> simp [h]

@[simp] theorem tickStrobe_reporter (p : PortIn) (s : State) : (s.tickStrobe p).reporter = s.reporter := by
  unfold State.tickStrobe; split <;> rfl

@[simp] theorem edgeIfRise_reporter (rise : Bool) (s : State) : (s.edgeIfRise rise).reporter = s.reporter := by
  cases rise <;> simp [State.edgeIfRise]

@[simp] theorem cycle_reporter (p : PortIn) (s : State) : (cycle p s).reporter = s.reporter := by
  cases hrst : p.rst with
  | true => simp [cycle_of_rst hrst]
  | false => simp [cycle_of_not_rst hrst]

/-- A cycle that neither releases nor resets keeps a ready frame (10_state.md R26). -/
theorem cycle_sameFrame_of_ready {p : PortIn} {s : State} (hr : s.ready = true) (hp : portsReleaseOrReset p = false) :
    SameFrame s (cycle p s) := by
  obtain ⟨hbuf, hready, hidx⟩ := readyProtectsTheFrameInEveryCycle p s hr hp
  exact ⟨hbuf, hready.trans hr.symm, hidx⟩

theorem foreignRelease_word {w : OpWord} {i : Instr} (h : decode w = .op i) :
    foreignRelease (.word w) = releasesOrResets i := by simp only [foreignRelease, h]

/-- Settles O52: other agents keep the ready frame and do not touch the Reporter, and the Reporter's own move at each phase
keeps the invariant. -/
theorem reporterReportsTheFrameItWasShown : Obligations.ReporterReportsTheFrameItWasShown := by
  intro s t hs hforeign hstep
  have hbegin (rest : List Stimulus) : ReporterInv (s.beginStep rest) := hs.of_sameFrame rfl fun _ => ⟨rfl, rfl, rfl⟩
  obtain ⟨_, rfl⟩ | ⟨w, rest, i, hin, hdec, hexec⟩ | ⟨p, rest, hin, rfl⟩ | ⟨rest, _, hmove⟩ | ⟨ms, rest, _, rfl⟩ :=
    step_cases hstep
  · exact ⟨hbegin [], .inl rfl⟩
  · have hi : releasesOrResets i = false := by
      rw [← foreignRelease_word hdec]
      exact hforeign (.word w) (by rw [hin]; rfl)
    have hrep : t.reporter = s.reporter := (exec_agents hexec).2
    refine ⟨(hbegin rest).of_sameFrame hrep fun hr => ?_, .inl (by rw [hrep])⟩
    exact exec_sameFrame_of_not_releasing hr hi hexec
  · have hp : portsReleaseOrReset p = false := hforeign (.ports p) (by rw [hin]; rfl)
    have hrep : (cycle p (s.beginStep rest)).reporter = s.reporter := cycle_reporter p _
    exact ⟨(hbegin rest).of_sameFrame hrep fun hr => cycle_sameFrame_of_ready hr hp, .inl (by rw [hrep])⟩
  · exact (hbegin rest).reporterMove hmove
  · exact (hbegin rest).reporterWait ms

end Sys2Proof.Machine
end

section
/-! PROOFS. The platform's view of the registers (20_memory.md R38, R41). -/

namespace Sys2Proof.Machine

/-- A host address selects the register that stands there (R41). -/
theorem blockAddr_eq_some_iff (n : Nat) (a : Addr) : blockAddr n = some a ↔ n = hostAddr a := by
  have := a.isLt
  unfold blockAddr hostAddr
  split
  · rw [Option.some_inj, ← BitVec.toNat_inj, BitVec.toNat_ofNat]
    omega
  · simp only [reduceCtorEq, false_iff]
    omega

theorem blockAddr_eq_none_iff (n : Nat) :
    blockAddr n = none ↔ n < Config.baseAddr ∨ Config.baseAddr + 16 ≤ n := by
  unfold blockAddr
  split
  · simp only [reduceCtorEq, false_iff]
    omega
  · simp only [true_iff]
    omega

theorem lowByte_toNat (v : Half) : (v.extractLsb' 0 8).toNat = v.toNat % 256 := by
  simp

theorem highByte_toNat (v : Half) : (v.extractLsb' 8 8).toNat = v.toNat / 256 := by
  have := v.isLt
  rw [BitVec.extractLsb'_toNat, Nat.shiftRight_eq_div_pow]
  omega

/-- A register is its two bytes. -/
theorem highByte_append_lowByte (v : Half) : v.extractLsb' 8 8 ++ v.extractLsb' 0 8 = v := by
  rw [BitVec.extractLsb'_append_extractLsb'_eq_extractLsb' (by rfl)]
  exact BitVec.extractLsb'_eq_self

theorem ofBusBytes_busBytes (order : Config.ByteOrder) (v : Half) : ofBusBytes order (busBytes order v) = v := by
  cases order <;> exact highByte_append_lowByte v

/-- Settles O55: the 16 locations, and the two bytes in either order. -/
theorem platformViewsLoseNothing : Obligations.PlatformViewsLoseNothing :=
  ⟨fun _ => rfl, blockAddr_eq_some_iff, blockAddr_eq_none_iff, fun v =>
    ⟨⟨lowByte_toNat v, highByte_toNat v⟩, ⟨highByte_toNat v, lowByte_toNat v⟩, fun order => ofBusBytes_busBytes order v⟩⟩

end Sys2Proof.Machine
end

section
/-! PROOFS. The decoder and the encoder (30_encoding.md R50 to R56): the round trip in both directions, the refused words,
the opcode map's rows, and the operand fields. -/

namespace Sys2Proof

/-! ### A word by its class -/

/-- A statement about every word, one format of R50 to R52 at a time, and the reserved class. -/
theorem word_cases {P : OpWord → Prop} (evt : ∀ sub a d, P (wordOf 0b00#2 sub a d))
    (rd : ∀ sub a d, P (wordOf 0b01#2 sub a d)) (wr : ∀ sub a d, P (wordOf 0b10#2 sub a d))
    (reserved : ∀ sub a d, P (wordOf 0b11#2 sub a d)) (w : OpWord) : P w := by
  have classes : ∀ c : BitVec 2, c = 0b00#2 ∨ c = 0b01#2 ∨ c = 0b10#2 ∨ c = 0b11#2 := by decide
  rw [← wordOf_fields w]
  obtain h | h | h | h := classes (wordCls w) <;> rw [h]
  · exact evt _ _ _
  · exact rd _ _ _
  · exact wr _ _ _
  · exact reserved _ _ _

/-! ### The addresses of each group of the map -/

theorem addr_cf_ne : ∀ a : Addr, 0xC ≤ a.toNat →
    ¬ a.toNat ≤ 0x7 ∧ a ≠ 0x8#4 ∧ a ≠ 0x9#4 ∧ a ≠ 0xA#4 ∧ a ≠ 0xB#4 := by decide

theorem addr_cf_of_ne : ∀ a : Addr, ¬ a.toNat ≤ 0x7 → a ≠ 0x8#4 → a ≠ 0x9#4 → a ≠ 0xA#4 → a ≠ 0xB#4 →
    0xC ≤ a.toNat := by decide

theorem addr_gs_iff : ∀ a : Addr, (a.toNat = 0x8 ∨ a.toNat = 0x9) ↔ a = 0x8#4 ∨ a = 0x9#4 := by decide

theorem ofNat_channelOfAddr : ∀ a : Addr, a.toNat ≤ 0x7 → BitVec.ofNat 4 (channelOfAddr a).val = a := by decide

/-! ### Decoding an encoded operation -/

theorem decodeRd_cf {a : Addr} (h : 0xC ≤ a.toNat) : decodeRd 0#2 a 0#16 = .op (.rdRsvdCf a) := by
  obtain ⟨hlow, h8, h9, hA, hB⟩ := addr_cf_ne a h
  simp [decodeRd, hlow, h8, h9, hA, hB]

theorem decodeWr_low {a : Addr} (h : a.toNat ≤ 0x7) (d : Half) : decodeWr 0#2 a d = .op (.wrRoCh a d) := by
  simp [decodeWr, h]

theorem decodeWr_gs {a : Addr} (h : a = 0x8#4 ∨ a = 0x9#4) (d : Half) : decodeWr 0#2 a d = .op (.wrRoGs a d) := by
  obtain rfl | rfl := h <;> rfl

theorem decodeWr_cf {a : Addr} (h : 0xC ≤ a.toNat) (d : Half) : decodeWr 0#2 a d = .op (.wrRsvdCf a d) := by
  obtain ⟨hlow, h8, h9, hA, hB⟩ := addr_cf_ne a h
  simp [decodeWr, hlow, h8, h9, hA, hB]

/-- The word of EDGE_E decodes to it, whatever the operand. -/
theorem decode_evtWord_edgeE (e : Half) : decode (evtWord 0b10#2 e) = .op (.edgeE e) := by
  rw [evtWord_eq, decode_evt]
  rfl

theorem decode_rdWord_channel : ∀ k : Fin 8, decode (rdWord (BitVec.ofNat 4 k.val)) = .op (.rdCh k) := by decide

/-- Settles O32, by the operation: fixed words and channel numbers by evaluation, the operations with a general operand by
their branch of the decoder, whose condition is well-formedness. -/
theorem decodeOfEncodeIsTheOperation : Obligations.DecodeOfEncodeIsTheOperation := by
  intro i hwf
  cases i with
  | tick => decide
  | edge => decide
  | edgeE e => exact decode_evtWord_edgeE e
  | reset => decide
  | rdCh k => exact decode_rdWord_channel k
  | rdGap => decide
  | rdStatus => decide
  | rdCtrl => decide
  | rdRsvdB => decide
  | rdRsvdCf a => exact (decode_rdWord a).trans (decodeRd_cf (of_decide_eq_true hwf))
  | wrRoCh a d => exact (decode_wrWord a d).trans (decodeWr_low (of_decide_eq_true hwf) d)
  | wrRoGs a d => exact (decode_wrWord a d).trans (decodeWr_gs ((addr_gs_iff a).1 (of_decide_eq_true hwf)) d)
  | release d =>
    have hbit : d.getLsbD 0 = true := hwf
    rw [encode, decode_wrWord, Machine.decodeWr_ctrl, if_pos hbit]
  | wrCtrlNop d =>
    have hbit : d.getLsbD 0 = false := by simpa [Instr.wf] using hwf
    rw [encode, decode_wrWord, Machine.decodeWr_ctrl, hbit, if_neg Bool.false_ne_true]
  | wrRsvdB d => exact decode_wrWord 0xB#4 d
  | wrRsvdCf a d => exact (decode_wrWord a d).trans (decodeWr_cf (of_decide_eq_true hwf) d)

/-! ### Encoding a decoded operation -/

theorem encode_of_decodeEvt {sub : BitVec 2} {a : Addr} {d : Half} {i : Instr} (h : decodeEvt sub a d = .op i) :
    encode i = wordOf 0b00#2 sub a d ∧ i.wf = true := by
  have last : ∀ c : BitVec 2, c ≠ 0b00#2 → c ≠ 0b01#2 → c ≠ 0b10#2 → c = 0b11#2 := by decide
  unfold decodeEvt at h
  split_ifs at h with ha h0 hd h1 hd h2 hd <;> cases h <;> rw [not_not.1 ha]
  · exact ⟨by rw [h0, hd]; rfl, rfl⟩
  · exact ⟨by rw [h1, hd]; rfl, rfl⟩
  · exact ⟨by rw [h2]; rfl, rfl⟩
  · exact ⟨by rw [last sub h0 h1 h2, hd]; rfl, rfl⟩

theorem encode_of_decodeRd {sub : BitVec 2} {a : Addr} {d : Half} {i : Instr} (h : decodeRd sub a d = .op i) :
    encode i = wordOf 0b01#2 sub a d ∧ i.wf = true := by
  unfold decodeRd at h
  split_ifs at h with hmbz hlow h8 h9 hA hB <;> cases h <;>
    obtain ⟨rfl, rfl⟩ : sub = 0#2 ∧ d = 0#16 := by simpa using hmbz
  · exact ⟨by rw [encode, ofNat_channelOfAddr a hlow, rdWord_eq], rfl⟩
  · exact ⟨by rw [h8]; rfl, rfl⟩
  · exact ⟨by rw [h9]; rfl, rfl⟩
  · exact ⟨by rw [hA]; rfl, rfl⟩
  · exact ⟨by rw [hB]; rfl, rfl⟩
  · exact ⟨rfl, decide_eq_true (addr_cf_of_ne a hlow h8 h9 hA hB)⟩

theorem encode_of_decodeWr {sub : BitVec 2} {a : Addr} {d : Half} {i : Instr} (h : decodeWr sub a d = .op i) :
    encode i = wordOf 0b10#2 sub a d ∧ i.wf = true := by
  unfold decodeWr at h
  split_ifs at h with hmbz hlow hgs hA hbit hB <;> cases h <;> obtain rfl := not_not.1 hmbz
  · exact ⟨rfl, decide_eq_true hlow⟩
  · exact ⟨rfl, decide_eq_true ((addr_gs_iff a).2 hgs)⟩
  · exact ⟨by rw [hA]; rfl, hbit⟩
  · exact ⟨by rw [hA]; rfl, by simpa [Instr.wf] using hbit⟩
  · exact ⟨by rw [hB]; rfl, rfl⟩
  · obtain ⟨h8, h9⟩ := not_or.1 hgs
    exact ⟨rfl, decide_eq_true (addr_cf_of_ne a hlow h8 h9 hA hB)⟩

/-- Settles O33: each format's decoder gives back an operation of that format with the word's own fields. -/
theorem encodeOfDecodeIsTheWord : Obligations.EncodeOfDecodeIsTheWord := by
  intro w i h
  cases w using word_cases with
  | evt sub a d => exact encode_of_decodeEvt (decode_evt sub a d ▸ h)
  | rd sub a d => exact encode_of_decodeRd (decode_rd sub a d ▸ h)
  | wr sub a d => exact encode_of_decodeWr (decode_wr sub a d ▸ h)
  | reserved sub a d => cases (decode_reserved sub a d).symm.trans h

/-! ### The refused words (R56) -/

theorem decodeEvt_refused_iff (sub : BitVec 2) (a : Addr) (d : Half) :
    (∃ why, decodeEvt sub a d = .refused why) ↔ a ≠ 0#4 ∨ (sub ≠ 0b10#2 ∧ d ≠ 0#16) := by
  unfold decodeEvt
  split_ifs <;> simp [*]

theorem decodeRd_refused_iff (sub : BitVec 2) (a : Addr) (d : Half) :
    (∃ why, decodeRd sub a d = .refused why) ↔ sub ≠ 0#2 ∨ d ≠ 0#16 := by
  unfold decodeRd
  split_ifs <;> simp_all

theorem decodeWr_refused_iff (sub : BitVec 2) (a : Addr) (d : Half) :
    (∃ why, decodeWr sub a d = .refused why) ↔ sub ≠ 0#2 := by
  unfold decodeWr
  split_ifs <;> simp_all

/-- Settles O35, format by format. -/
theorem exactlyTheListedWordsAreRefused : Obligations.ExactlyTheListedWordsAreRefused := by
  intro w
  cases w using word_cases with
  | evt sub a d => simp [decode_evt, decodeEvt_refused_iff]
  | rd sub a d => simp [decode_rd, decodeRd_refused_iff]
  | wr sub a d => simp [decode_wr, decodeWr_refused_iff]
  | reserved sub a d => simp [decode_reserved]

/-- A word that is not refused decodes to an operation: there is nothing else (R55). -/
theorem exists_op_of_not_refused {w : OpWord} (h : ¬ ∃ why, decode w = .refused why) : ∃ i, decode w = .op i := by
  cases hd : decode w with
  | op i => exact ⟨i, rfl⟩
  | refused why => exact absurd ⟨why, hd⟩ h

/-! ### The rows of the opcode map (R55) -/

/-- Every operation's word is a word of its row: the statements made once per operation, together. -/
theorem rowMatch (i : Instr) : Laws.RowMatch.Statement i := by
  cases i with
  | tick => exact Laws.RowMatch.tick
  | edge => exact Laws.RowMatch.edge
  | edgeE e => exact Laws.RowMatch.edgeE e
  | reset => exact Laws.RowMatch.reset
  | rdCh k => exact Laws.RowMatch.rdCh k
  | rdGap => exact Laws.RowMatch.rdGap
  | rdStatus => exact Laws.RowMatch.rdStatus
  | rdCtrl => exact Laws.RowMatch.rdCtrl
  | rdRsvdB => exact Laws.RowMatch.rdRsvdB
  | rdRsvdCf a => exact Laws.RowMatch.rdRsvdCf a
  | wrRoCh a d => exact Laws.RowMatch.wrRoCh a d
  | wrRoGs a d => exact Laws.RowMatch.wrRoGs a d
  | release d => exact Laws.RowMatch.release d
  | wrCtrlNop d => exact Laws.RowMatch.wrCtrlNop d
  | wrRsvdB d => exact Laws.RowMatch.wrRsvdB d
  | wrRsvdCf a d => exact Laws.RowMatch.wrRsvdCf a d

/-- The map has a row for every operation. -/
theorem exists_row (i : Instr) : ∃ r ∈ opcodeTable, r.mnemonic = mnemonicOf i := by
  cases i <;> simp [mnemonicOf, opcodeTable, opcodeRowsEvt, opcodeRowsRd, opcodeRowsWr]

/-- A word that decodes to an operation matches that operation's row. -/
theorem accepts_of_decode {w : OpWord} {i : Instr} {r : OpcodeRow} (h : decode w = .op i) (hr : r ∈ opcodeTable)
    (hm : r.mnemonic = mnemonicOf i) : r.accepts w := by
  obtain ⟨hw, hwf⟩ := encodeOfDecodeIsTheWord w i h
  exact hw ▸ rowMatch i hwf r hr hm

/-- Two rows that accept a common word have patterns that agree under both masks. -/
theorem patterns_agree {r r' : OpcodeRow} {w : OpWord} (h : r.accepts w) (h' : r'.accepts w) :
    r.pattern &&& r'.mask = r'.pattern &&& r.mask := by
  rw [← show w &&& r.mask = r.pattern from h, ← show w &&& r'.mask = r'.pattern from h', BitVec.and_assoc,
    BitVec.and_assoc, BitVec.and_comm r.mask]

theorem row_eq_of_patterns_agree : ∀ r ∈ opcodeTable, ∀ r' ∈ opcodeTable,
    r.pattern &&& r'.mask = r'.pattern &&& r.mask → r = r' := by decide

/-- No word matches two rows. -/
theorem row_unique {r r' : OpcodeRow} {w : OpWord} (hr : r ∈ opcodeTable) (hr' : r' ∈ opcodeTable) (h : r.accepts w)
    (h' : r'.accepts w) : r = r' :=
  row_eq_of_patterns_agree r hr r' hr' (patterns_agree h h')

/-- The row's mask covers CLS and bits 21:20, its class is not the reserved one, and it fixes at 0 every field that its
format says must be zero (R50 to R52). -/
structure OpcodeRow.FixesMbz (r : OpcodeRow) : Prop where
  cls : wordCls r.mask = 0b11#2
  sub : wordSub r.mask = 0b11#2
  notReserved : wordCls r.pattern ≠ 0b11#2
  evtAddr : wordCls r.pattern = 0b00#2 → wordAddr r.mask = 0xF#4 ∧ wordAddr r.pattern = 0#4
  evtData : wordCls r.pattern = 0b00#2 → wordSub r.pattern ≠ 0b10#2 →
    wordData r.mask = 0xFFFF#16 ∧ wordData r.pattern = 0#16
  rdSub : wordCls r.pattern = 0b01#2 → wordSub r.pattern = 0#2
  rdData : wordCls r.pattern = 0b01#2 → wordData r.mask = 0xFFFF#16 ∧ wordData r.pattern = 0#16
  wrSub : wordCls r.pattern = 0b10#2 → wordSub r.pattern = 0#2

theorem fixesMbz_of_mem {r : OpcodeRow} (hr : r ∈ opcodeTable) : r.FixesMbz where
  cls := by revert r; decide
  sub := by revert r; decide
  notReserved := by revert r; decide
  evtAddr := by revert r; decide
  evtData := by revert r; decide
  rdSub := by revert r; decide
  rdData := by revert r; decide
  wrSub := by revert r; decide

/-- A field that the mask covers whole has the pattern's value. -/
theorem eq_of_and_allOnes {n : Nat} {x m p : BitVec n} (h : x &&& m = p) (hm : m = BitVec.allOnes n) : x = p := by
  rw [← h, hm, BitVec.and_allOnes]

/-- A word that matches a row is none of the words of R56. -/
theorem not_refused_of_accepts {r : OpcodeRow} {w : OpWord} (hr : r ∈ opcodeTable) (h : r.accepts w) :
    ¬ ∃ why, decode w = .refused why := by
  have hfix := fixesMbz_of_mem hr
  have hcls : wordCls w = wordCls r.pattern :=
    eq_of_and_allOnes ((wordCls_and w r.mask).symm.trans (congrArg wordCls h)) hfix.cls
  have hsub : wordSub w = wordSub r.pattern :=
    eq_of_and_allOnes ((wordSub_and w r.mask).symm.trans (congrArg wordSub h)) hfix.sub
  have haddr : wordAddr w &&& wordAddr r.mask = wordAddr r.pattern :=
    (wordAddr_and w r.mask).symm.trans (congrArg wordAddr h)
  have hdata : wordData w &&& wordData r.mask = wordData r.pattern :=
    (wordData_and w r.mask).symm.trans (congrArg wordData h)
  rw [exactlyTheListedWordsAreRefused w, hcls, hsub]
  rintro (hc | ⟨hc, hne⟩ | ⟨hc, hs, hne⟩ | ⟨hc, hne | hne⟩ | ⟨hc, hne⟩)
  · exact hfix.notReserved hc
  · obtain ⟨hm, hp⟩ := hfix.evtAddr hc
    exact hne ((eq_of_and_allOnes haddr hm).trans hp)
  · obtain ⟨hm, hp⟩ := hfix.evtData hc hs
    exact hne ((eq_of_and_allOnes hdata hm).trans hp)
  · exact hne (hfix.rdSub hc)
  · obtain ⟨hm, hp⟩ := hfix.rdData hc
    exact hne ((eq_of_and_allOnes hdata hm).trans hp)
  · exact hne (hfix.wrSub hc)

/-- Settles O34: a matched word decodes to some operation, whose own row it matches too, and rows are disjoint. -/
theorem opcodeMapMatchesTheDecoder : Obligations.OpcodeMapMatchesTheDecoder := by
  refine ⟨fun w r hr => ⟨fun h => ?_, fun ⟨i, hdec, hm⟩ => accepts_of_decode hdec hr hm.symm⟩,
    fun w r hr r' hr' h h' => row_unique hr hr' h h'⟩
  obtain ⟨i, hdec⟩ := exists_op_of_not_refused (not_refused_of_accepts hr h)
  obtain ⟨r', hr', hm⟩ := exists_row i
  have : r = r' := row_unique hr hr' h (accepts_of_decode hdec hr' hm)
  exact ⟨i, hdec, this ▸ hm.symm⟩

/-! ### The operand fields (R53) -/

/-- A word that decodes to an operation is its encoding, so the fields of the encoding are the word's. -/
theorem word_eq_of_decode {w : OpWord} {i : Instr} (h : decode w = .op i) : w = encode i :=
  (encodeOfDecodeIsTheWord w i h).1.symm

theorem channel_fields : ∀ k : Fin 8, k.val = ((encode (.rdCh k)).extractLsb' 16 3).toNat ∧
    (encode (.rdCh k)).getLsbD 19 = false := by decide

theorem addr_of_rdWord (a : Addr) : (rdWord a).extractLsb' 16 4 = a := wordAddr_wordOf 0b01#2 0#2 a 0#16
theorem addr_of_wrWord (a : Addr) (v : Half) : (wrWord a v).extractLsb' 16 4 = a := wordAddr_wordOf 0b10#2 0#2 a v
theorem data_of_wrWord (a : Addr) (v : Half) : (wrWord a v).extractLsb' 0 16 = v := wordData_wordOf 0b10#2 0#2 a v

/-- Settles O36: the fields of the operation's encoding. -/
theorem operandsAreTakenFromTheirFields : Obligations.OperandsAreTakenFromTheirFields := by
  intro w
  refine ⟨?rdCh, ?edgeE, ?rdRsvdCf, ?wrAddr, ?wrRsvdB, ?release, ?wrCtrlNop⟩
  case rdCh => intro k h; exact word_eq_of_decode h ▸ channel_fields k
  case edgeE => intro e h; exact word_eq_of_decode h ▸ (wordData_wordOf 0b00#2 0b10#2 0#4 e).symm
  case rdRsvdCf => intro a h; exact word_eq_of_decode h ▸ (addr_of_rdWord a).symm
  case wrAddr =>
    intro a v h
    have hw : w = wrWord a v := by obtain h | h | h := h <;> exact word_eq_of_decode h
    exact hw ▸ ⟨(addr_of_wrWord a v).symm, (data_of_wrWord a v).symm⟩
  case wrRsvdB => intro v h; exact word_eq_of_decode h ▸ ⟨addr_of_wrWord 0xB#4 v, (data_of_wrWord 0xB#4 v).symm⟩
  case release =>
    intro v h
    obtain ⟨rfl, hbit⟩ := encodeOfDecodeIsTheWord w _ h
    exact ⟨addr_of_wrWord 0xA#4 v, (data_of_wrWord 0xA#4 v).symm, hbit⟩
  case wrCtrlNop =>
    intro v h
    obtain ⟨rfl, hbit⟩ := encodeOfDecodeIsTheWord w _ h
    exact ⟨addr_of_wrWord 0xA#4 v, (data_of_wrWord 0xA#4 v).symm, by simpa [Instr.wf] using hbit⟩

/-- Settles O37: twelve fixed words, by evaluation of the decoder. -/
theorem writtenOutWordsDecode : Obligations.WrittenOutWordsDecode := by
  unfold Obligations.WrittenOutWordsDecode
  decide

end Sys2Proof
end

section
/-! PROOFS. The words of a clock cycle (30_encoding.md R61), and the assembler's lines and pseudo-operations (R59, R60). -/

namespace Sys2Proof.Machine

/-! ### The words of each part of a clock cycle -/

theorem execWord_tick (s : State) : execWord 0x000000#24 s = .next s.tick :=
  execWord_op (decodeOfEncodeIsTheOperation .tick rfl) s

theorem execWord_edge (s : State) : execWord 0x100000#24 s = .next s.edge :=
  execWord_op (decodeOfEncodeIsTheOperation .edge rfl) s

theorem execWord_reset (s : State) : execWord 0x300000#24 s = .next s.resetBlock :=
  execWord_op (decodeOfEncodeIsTheOperation .reset rfl) s

theorem runWords_hostWords (p : PortIn) (s : State) : runWords (hostWords p) s = .next (s.hostAccess p) := by
  unfold hostWords State.hostAccess
  split_ifs
  · rw [runWords_singleton, execWord_wrWord]
  · rw [runWords_singleton, execWord_rdWord]
  · rfl

theorem runWords_tickWords (p : PortIn) (s : State) :
    runWords (if p.tickEn then [0x000000#24] else []) s = .next (s.tickStrobe p) := by
  unfold State.tickStrobe
  split_ifs
  · rw [runWords_singleton, execWord_tick]
  · rfl

theorem runWords_edgeWords (rise : Bool) (s : State) :
    runWords (if rise then [0x100000#24] else []) s = .next (s.edgeIfRise rise) := by
  unfold State.edgeIfRise
  split_ifs
  · rw [runWords_singleton, execWord_edge]
  · rfl

/-- Without reset the words of a cycle are the host access, the tick and the edge, in this order (R101). -/
theorem runWords_cycleWords {p : PortIn} (h : p.rst = false) (rise : Bool) (s : State) :
    runWords (cycleWords p rise) s = .next (((s.hostAccess p).tickStrobe p).edgeIfRise rise) := by
  rw [cycleWords, h, if_neg Bool.false_ne_true, runWords_append, runWords_append, runWords_hostWords, andThen_next,
    runWords_tickWords, andThen_next, runWords_edgeWords]

/-! ### A cycle needs no EDGE_E and no refused word -/

/-- The word decodes to an operation, and that is not EDGE_E. -/
def SpellsUntimed (w : OpWord) : Prop := (∃ i, decode w = .op i) ∧ ∀ e, decode w ≠ .op (.edgeE e)

theorem spellsUntimed_encode {i : Instr} (hwf : i.wf = true) (hi : ∀ e, i ≠ .edgeE e) : SpellsUntimed (encode i) := by
  have h : decode (encode i) = .op i := decodeOfEncodeIsTheOperation i hwf
  exact ⟨⟨i, h⟩, fun e he => hi e (Decoded.op.inj (h.symm.trans he))⟩

theorem spellsUntimed_rdWord (a : Addr) : SpellsUntimed (rdWord a) := by
  refine ⟨exists_op_of_not_refused ?_, fun e => ?_⟩ <;> rw [decode_rdWord]
  · simp [decodeRd_refused_iff]
  · exact decodeRd_ne_edgeE 0#2 a 0#16 e

theorem spellsUntimed_wrWord (a : Addr) (v : Half) : SpellsUntimed (wrWord a v) := by
  refine ⟨exists_op_of_not_refused ?_, fun e => ?_⟩ <;> rw [decode_wrWord]
  · simp [decodeWr_refused_iff]
  · exact decodeWr_ne_edgeE 0#2 a v e

theorem spellsUntimed_of_mem_hostWords {p : PortIn} {w : OpWord} (h : w ∈ hostWords p) : SpellsUntimed w := by
  unfold hostWords at h
  split_ifs at h
  · rw [List.mem_singleton.1 h]; exact spellsUntimed_wrWord p.addr p.wdata
  · rw [List.mem_singleton.1 h]; exact spellsUntimed_rdWord p.addr
  · cases h

theorem spellsUntimed_of_mem_cycleWords {p : PortIn} {rise : Bool} {w : OpWord} (h : w ∈ cycleWords p rise) :
    SpellsUntimed w := by
  unfold cycleWords at h
  by_cases hrst : p.rst = true
  · rw [if_pos hrst, List.mem_singleton] at h
    exact h ▸ spellsUntimed_encode (i := .reset) rfl nofun
  · rw [if_neg hrst, List.mem_append, List.mem_append, List.mem_ite_nil_right, List.mem_ite_nil_right,
      List.mem_singleton, List.mem_singleton] at h
    obtain (hhost | ⟨_, rfl⟩) | ⟨_, rfl⟩ := h
    · exact spellsUntimed_of_mem_hostWords hhost
    · exact spellsUntimed_encode (i := .tick) rfl nofun
    · exact spellsUntimed_encode (i := .edge) rfl nofun

/-- Settles O41: RESET alone under reset; else the parts of the cycle in order, which leave the sampler for its shift. -/
theorem cycleIsTheRunOfItsWords : Obligations.CycleIsTheRunOfItsWords := by
  intro p s
  cases hrst : p.rst with
  | true =>
    refine ⟨s.undriven.resetBlock, ?_, cycle_of_rst hrst s, fun w => spellsUntimed_of_mem_cycleWords⟩
    rw [cycleWords, if_pos hrst, runWords_singleton, execWord_reset]
  | false =>
    refine ⟨_, runWords_cycleWords hrst s.rise s.undriven, ?_, fun w => spellsUntimed_of_mem_cycleWords⟩
    rw [cycle_of_not_rst hrst]
    simp [State.shiftSampler]

/-! ### The assembler's words by addition (R59) -/

theorem lowHalf_toNat (v : Half) : (lowHalf v).toNat = v.toNat := by
  have := v.isLt
  rw [lowHalf, BitVec.toNat_setWidth]
  omega

theorem atAddr_toNat (a : Addr) : (atAddr a).toNat = a.toNat * 2 ^ 16 := by
  have := a.isLt
  rw [atAddr, BitVec.toNat_ofNat]
  omega

/-- A word is its class and sub-fields plus its address and data, each in its place: nothing carries. -/
theorem wordOf_eq_add (cls sub : BitVec 2) (a : Addr) (d : Half) :
    wordOf cls sub a d = wordOf cls sub 0#4 0#16 + atAddr a + lowHalf d := by
  apply BitVec.eq_of_toNat_eq
  have := cls.isLt
  have := sub.isLt
  have := a.isLt
  have := d.isLt
  simp only [BitVec.toNat_add, wordOf_toNat, atAddr_toNat, lowHalf_toNat, BitVec.toNat_ofNat]
  omega

theorem rdWord_eq_add (a : Addr) : rdWord a = 0x400000#24 + atAddr a := by
  rw [rdWord_eq, wordOf_eq_add]
  exact BitVec.add_zero _

theorem wrWord_eq_add (a : Addr) (v : Half) : wrWord a v = 0x800000#24 + atAddr a + lowHalf v :=
  wordOf_eq_add 0b10#2 0#2 a v

theorem evtWord_edgeE_eq_add (e : Half) : evtWord 0b10#2 e = 0x200000#24 + lowHalf e :=
  wordOf_eq_add 0b00#2 0b10#2 0#4 e

/-- Both operations of a write to CTRL have the word of that write. -/
theorem encode_ctrl (v : Half) : encode (if v.getLsbD 0 then .release v else .wrCtrlNop v) = wrWord 0xA#4 v := by
  split_ifs <;> rfl

theorem words_rdAt (a : Addr) : (AsmLine.rdAt a).words = [rdWord a] := by rw [rdWord_eq_add]; rfl
theorem words_wrAt (a : Addr) (v : Half) : (AsmLine.wrAt a v).words = [wrWord a v] := by rw [wrWord_eq_add]; rfl

/-- Settles O48: a line with operands is a sum of fields, and the line of an access at an address is its RD or WR word. -/
theorem assemblerLinesAreTheirOperations : Obligations.AssemblerLinesAreTheirOperations := by
  refine ⟨rfl, rfl, fun e => ?edgeE, rfl, fun k => words_rdAt (addrOfChannel k), rfl, rfl, rfl, words_rdAt 0xB#4,
    fun a _ => words_rdAt a, fun k v => words_wrAt (addrOfChannel k) v,
    fun v => ⟨words_wrAt 0x8#4 v, words_wrAt 0x9#4 v⟩, fun v => ?wrCtrl, fun v => words_wrAt 0xB#4 v,
    fun a v _ => words_wrAt a v⟩
  case edgeE => rw [encode, evtWord_edgeE_eq_add]; rfl
  case wrCtrl => rw [encode_ctrl, wrWord_eq_add]; rfl

/-! ### The pseudo-operations (R60) -/

theorem words_frameE (a : Vector Half 8) (g : Half) :
    (AsmLine.frameE a g).words = (a.push g).toList.map fun e => encode (.edgeE e) := by
  simp only [AsmLine.words, Vector.toList_push, encode, evtWord_edgeE_eq_add]

/-- `n` TICKs add `n` to the counter, modulo 2^16 (R62, R66). -/
theorem runWords_ticks (n : Nat) (s : State) :
    runWords (AsmLine.ticks n).words s = .next { s with cnt := s.cnt + BitVec.ofNat 16 n } := by
  simp only [AsmLine.words]
  induction n generalizing s with
  | zero => simp
  | succ n ih =>
    rw [List.replicate_succ, runWords_cons, execWord_tick, andThen_next, ih, tick_cnt, BitVec.add_assoc,
      ← BitVec.ofNat_add, Nat.add_comm 1 n]
    rfl

theorem usOfTicks_double {u : Nat} (h : 2 * u < 2 ^ 16) : usOfTicks (BitVec.ofNat 16 (2 * u)) = BitVec.ofNat 16 u := by
  rw [usOfTicks, BitVec.toNat_ofNat, Nat.mod_eq_of_lt h, Config.ticksPerUs, Nat.mul_div_cancel_left u Nat.two_pos]

/-- From a counter at 0 the interval measured is the one asked for, and the edge leaves the counter at 0 again. -/
theorem runWords_interval {u : Nat} {s : State} (hcnt : s.cnt = 0#16) (hu : 2 * u < 2 ^ 16) :
    runWords (AsmLine.interval u).words s = exec (.edgeE (BitVec.ofNat 16 u)) s := by
  have hsplit : (AsmLine.interval u).words = (AsmLine.ticks (2 * u)).words ++ [0x100000#24] := rfl
  have hself : { s with cnt := 0#16 } = s := by rw [← hcnt]
  rw [hsplit, runWords_append, runWords_ticks, andThen_next, runWords_singleton, execWord_edge, edge_eq, hcnt,
    BitVec.zero_add, usOfTicks_double hu, hself]
  rfl

/-- Settles O49: the expansions are the definition's lists, and INTERVAL is that many ticks and an edge. -/
theorem pseudoOperationsExpand : Obligations.PseudoOperationsExpand :=
  ⟨rfl, rfl, fun _ => rfl, fun _ => rfl, words_frameE, by decide, fun _ _ => runWords_interval⟩

end Sys2Proof.Machine
end

section
/-! PROOFS. The Edge Timer (40_edge_timer.md): TICK, the read-and-reset of EDGE, and the threshold in ticks. -/

namespace Sys2Proof.Machine

/-! ### Who changes the counter -/

/-- Settles O1: the word by evaluation of the decoder, and 16-bit addition as addition modulo 2^16. -/
theorem tickIncrementsCounter : Obligations.TickIncrementsCounter := by
  refine ⟨by decide, fun s => ?_⟩
  have hcnt : s.cnt + 1#16 = BitVec.ofNat 16 ((s.cnt.toNat + 1) % 2 ^ 16) :=
    BitVec.eq_of_toNat_eq (by simp)
  rw [← hcnt]
  rfl

/-- Settles O11: `Decode` keeps the counter, which is 0 when EDGE hands its interval over. -/
theorem everyEdgeRestartsTheTimer : Obligations.EveryEdgeRestartsTheTimer := fun s => ⟨s.edge, rfl, edge_cnt s⟩

/-- Settles O13: EDGE_E, a host read, RELEASE and a write without effect keep the counter. -/
theorem onlyTickEdgeAndResetChangeTheCounter : Obligations.OnlyTickEdgeAndResetChangeTheCounter := by
  intro i s t h hne
  obtain ⟨hi, _⟩ | ⟨hi, _⟩ | ⟨e, _, rfl⟩ | ⟨hi, _⟩ | ⟨_, _, v, rfl⟩ | ⟨_, rfl⟩ | ⟨_, _, rfl⟩ := exec_cases h
  · exact .inl hi
  · exact .inr (.inl hi)
  · exact absurd (decodeEdge_cnt e s) hne
  · exact .inr (.inr hi)
  · exact absurd (driveRdata_cnt s v) hne
  · exact absurd (release_cnt s) hne
  · exact absurd rfl hne

/-! ### EDGE as EDGE_E of the time measured -/

/-- A state is its frame, its counter, its sampler, the port `rdata` and the agents around it (R29). -/
theorem SameFrame.eq_of_rest {s t : State} (h : SameFrame s t) (hcnt : t.cnt = s.cnt) (hs1 : t.s1 = s.s1)
    (hs2 : t.s2 = s.s2) (hprev : t.prev = s.prev) (hrdata : t.rdata = s.rdata) (hinputs : t.inputs = s.inputs)
    (hreporter : t.reporter = s.reporter) : t = s := by
  obtain ⟨hbuf, hready, hidx⟩ := h
  cases s
  cases t
  simp_all only

/-- `Decode(e)` neither reads nor writes the counter: it commutes with setting it (R78). -/
theorem decodeEdge_setCnt (e : Half) (s : State) (c : Half) :
    State.decodeEdge e { s with cnt := c } = { s.decodeEdge e with cnt := c } := by
  have hset : SameFrame s { s with cnt := c } := ⟨rfl, rfl, rfl⟩
  obtain ⟨hbuf, hready, hidx⟩ := hset.decodeEdge e
  exact SameFrame.eq_of_rest ⟨hbuf, hready, hidx⟩ (by simp) (by simp) (by simp) (by simp) (by simp) (by simp) (by simp)

/-- EDGE is EDGE_E of the elapsed µs, and the counter set to 0. -/
theorem edge_eq_decodeEdge_setCnt (s : State) :
    s.edge = { s.decodeEdge (usOfTicks s.cnt) with cnt := 0#16 } := by
  rw [edge_eq, decodeEdge_setCnt]

/-- The elapsed µs of `n` ticks: the count wraps at 2^16 and is then halved (R64, R66). -/
theorem usOfTicks_ofNat (n : Nat) : usOfTicks (BitVec.ofNat 16 n) = BitVec.ofNat 16 (n % 2 ^ 16 / 2) := by
  rw [usOfTicks, BitVec.toNat_ofNat, Config.ticksPerUs]

theorem runOps_append_singleton {ops : List Instr} {s t : State} (h : runOps ops s = .next t) (i : Instr) :
    runOps (ops ++ [i]) s = exec i t := by
  obtain ⟨u, hu⟩ := exec_completes i t
  rw [runOps_append, h, andThen_next, runOps_cons, hu, andThen_next, runOps_nil]

/-- Settles O12: after the operations the counter is the wrapped tick count (O15), and EDGE is EDGE_E of its half. -/
theorem edgeMeasuresTheTicksSinceTheLastEdge : Obligations.EdgeMeasuresTheTicksSinceTheLastEdge := by
  intro ops n s hn
  obtain ⟨u, hu, hcnt⟩ := counterCountsTicksSinceEdgeOrReset.2 ops n s hn
  refine ⟨u.decodeEdge (usOfTicks u.cnt), ?_, ?_⟩
  · rw [runOps_append_singleton hu, hcnt, usOfTicks_ofNat]
    rfl
  · rw [runOps_append_singleton hu, ← edge_eq_decodeEdge_setCnt]
    rfl

/-! ### The sync threshold -/

/-- A sync gap, in ticks: halving rounds down, so 5001 is still a pulse (R68). -/
theorem sync_usOfTicks_iff (c : Half) : 2500 < (usOfTicks c).toNat ↔ 5002 ≤ c.toNat := by
  rw [usOfTicks_toNat]
  omega

theorem pulse_usOfTicks_iff (c : Half) : (usOfTicks c).toNat ≤ 2500 ↔ c.toNat ≤ 5001 := by
  rw [usOfTicks_toNat]
  omega

theorem channelPulse_ready (i : Fin 9) (e : Half) (s : State) : (s.channelPulse i e).ready = s.ready := by
  unfold State.channelPulse
  split <;> rfl

/-- In a frame a sync gap sets `ready`, and a channel pulse does not (R73, R75, R76). -/
theorem decodeEdge_ready_iff_of_inFrame {s : State} {i : Fin 9} (hr : s.ready = false) (hi : s.idx = .inFrame i)
    (e : Half) : (s.decodeEdge e).ready = true ↔ 2500 < e.toNat := by
  rcases Nat.lt_or_ge 2500 e.toNat with he | he
  · rw [decodeEdge_sync_inFrame hr hi he]
    exact iff_of_true rfl he
  · rw [decodeEdge_pulse_inFrame hr hi he, channelPulse_ready, hr]
    exact iff_of_false Bool.false_ne_true (Nat.not_lt.2 he)

/-- Settles O14: EDGE ends the frame exactly when its interval is a sync gap, which in ticks is 5002 and more. -/
theorem syncThresholdIsFiveThousandAndTwoTicks : Obligations.SyncThresholdIsFiveThousandAndTwoTicks := by
  intro s i hr hi
  refine ⟨sync_usOfTicks_iff s.cnt, pulse_usOfTicks_iff s.cnt, s.edge, rfl, ?_⟩
  rw [(edge_sameFrame s).ready, decodeEdge_ready_iff_of_inFrame hr hi, sync_usOfTicks_iff]

end Sys2Proof.Machine
end

section
/-! PROOFS. The Frame Decoder (41_frame_decoder.md): the next-state table of an edge, whole and short frames, and the two
sync gaps between a release and the next report. -/

namespace Sys2Proof.Machine

/-! ### One edge by the next-state table -/

/-- `Decode(e)` follows every row of R80. -/
theorem decodeEdge_decodeTable (e : Half) (s : State) : DecodeTable e s (s.decodeEdge e) where
  drop hr := decodeEdge_ready hr
  syncAcquire hr hi he := decodeEdge_sync_unsync hr hi he
  frameEnd _ hr hi he := decodeEdge_sync_inFrame hr hi he
  waitSync hr hi he := decodeEdge_pulse_unsync hr hi he
  channel i hr hi he := by rw [decodeEdge_pulse_inFrame hr hi he, channelPulse_lt i.castSucc i.isLt]; rfl
  overflowChannel hr hi he := by rw [decodeEdge_pulse_inFrame hr hi he, channelPulse_last]

/-- Settles O2: EDGE is `Decode` of the halved count on the state whose counter is 0, and `Decode` keeps the table. -/
theorem edgeDecodesTheTimedInterval : Obligations.EdgeDecodesTheTimedInterval :=
  ⟨by decide, fun s => ⟨s.edge, rfl, decodeEdge_decodeTable (usOfTicks s.cnt) { s with cnt := 0#16 }⟩⟩

/-- Settles O3: EDGE_E is `Decode` of its operand, which keeps the table and commutes with setting the counter. -/
theorem edgeEDecodesTheGivenInterval : Obligations.EdgeEDecodesTheGivenInterval := fun e =>
  ⟨decode_evtWord_edgeE e, fun s => ⟨s.decodeEdge e, rfl, decodeEdge_decodeTable e s, fun c =>
    congrArg Host.Outcome.next (decodeEdge_setCnt e s c)⟩⟩

/-! ### Frames -/

/-- The buffer once the pulses `p` of a frame are in: they fill its first entries, and the others are as they were. -/
def withPulses (buf : Vector Half 9) (p : List Half) : Vector Half 9 := Vector.ofFn fun k => p[k.val]?.getD buf[k]

section
variable (buf : Vector Half 9) {p : List Half}

theorem getElem_withPulses {k : Nat} (hk : k < 9) : (withPulses buf p)[k] = p[k]?.getD buf[k] := by simp [withPulses]

theorem withPulses_nil : withPulses buf [] = buf := by
  ext1 k hk
  simp [getElem_withPulses]

/-- One pulse more is the write of the next entry (R75). -/
theorem withPulses_append_singleton (hlen : p.length < 9) (e : Half) :
    withPulses buf (p ++ [e]) = (withPulses buf p).set p.length e := by
  ext1 k hk
  rw [getElem_withPulses, Vector.getElem_set, getElem_withPulses]
  rcases Nat.lt_trichotomy k p.length with hlt | heq | hgt
  · rw [List.getElem?_append_left hlt, if_neg hlt.ne']
  · simp [heq]
  · rw [if_neg hgt.ne, List.getElem?_eq_none (by simpa using hgt), List.getElem?_eq_none hgt.le]

/-- Eight pulses and the gap fill the buffer: nothing of the frame before is left. -/
theorem set_gap_withPulses_full (p : Vector Half 8) (g : Half) : (withPulses buf p.toList).set 8 g = p.push g := by
  ext1 k hk
  rw [Vector.getElem_set, Vector.getElem_push, getElem_withPulses]
  rcases Nat.lt_or_ge k 8 with hlt | hge
  · simp [hlt, hlt.ne']
  · simp [Nat.le_antisymm (Nat.le_of_lt_succ hk) hge]

end

section
variable {s : State} {p : List Half} (hr : s.ready = false) (hi : s.idx = .inFrame 0)
include hr hi

/-- Up to eight channel pulses from `InFrame(0)` (R75): one entry and one index each, and `ready` stays 0. -/
theorem runOps_pulses (hlen : p.length < 9) (hp : ∀ e ∈ p, e.toNat ≤ 2500) :
    runOps (p.map .edgeE) s = .next { s with buf := withPulses s.buf p, idx := .inFrame ⟨p.length, hlen⟩ } := by
  induction p using List.reverseRecOn with
  | nil => rw [withPulses_nil]; exact congrArg Host.Outcome.next (by cases s; cases hi; rfl)
  | append_singleton p e ih =>
    rw [List.length_append, List.length_singleton] at hlen
    obtain ⟨hp, he⟩ := List.forall_mem_append.1 hp
    have hrun := ih (Nat.lt_of_succ_lt hlen) hp
    rw [List.map_append, List.map_singleton, runOps_append_singleton hrun, withPulses_append_singleton _ (by omega)]
    simp only [List.length_append, List.length_singleton]
    exact congrArg Host.Outcome.next
      ((decodeEdge_decodeTable e _).channel ⟨p.length, by omega⟩ hr rfl (he e List.mem_cons_self))

/-- A sync gap after up to eight channel pulses ends the frame (R73). -/
theorem runOps_frame (hlen : p.length < 9) (hp : ∀ e ∈ p, e.toNat ≤ 2500) {g : Half} (hg : 2500 < g.toNat) :
    runOps ((p ++ [g]).map .edgeE) s =
      .next { s with buf := (withPulses s.buf p).set 8 g, ready := true, idx := .inFrame 0 } := by
  rw [List.map_append, List.map_singleton, runOps_append_singleton (runOps_pulses hr hi hlen hp)]
  exact congrArg Host.Outcome.next (decodeEdge_sync_inFrame hr rfl hg)

end

/-- A whole frame from `InFrame(0)` (R82). -/
theorem runOps_wholeFrame {s : State} {p : Vector Half 8} {g : Half} (hr : s.ready = false) (hi : s.idx = .inFrame 0)
    (hp : ∀ e ∈ p.toList, e.toNat ≤ 2500) (hg : 2500 < g.toNat) :
    runOps ((p.push g).toList.map .edgeE) s = .next { s with buf := p.push g, ready := true, idx := .inFrame 0 } := by
  rw [Vector.toList_push, runOps_frame hr hi (by simp) hp hg, set_gap_withPulses_full]

/-- Settles O28: eight CHANNEL rows and FRAME-END, after SYNC-ACQUIRE when the decoder starts in UNSYNC. -/
theorem wellFormedFrameDecodesExactly : Obligations.WellFormedFrameDecodesExactly := by
  intro s p g hr hpulse hg
  have hp : ∀ e ∈ p.toList, e.toNat ≤ 2500 := by
    intro e he
    obtain ⟨k, hk, rfl⟩ := Vector.mem_iff_getElem.1 (Vector.mem_toList_iff.1 he)
    exact hpulse ⟨k, hk⟩
  refine ⟨fun hi => ⟨runOps_wholeFrame hr hi hp hg, fun n hn => ?_⟩, fun hi g₀ hg₀ => ?_⟩
  · have htake : (p.push g).toList.take n = p.toList.take n := by
      rw [Vector.toList_push, List.take_append_of_le_length (by simpa using hn)]
    rw [← List.map_take, htake]
    exact ⟨_, runOps_pulses hr hi (by simp) fun e he => hp e (List.mem_of_mem_take he), hr⟩
  · have hsync : exec (.edgeE g₀) s = .next s.syncAcquire :=
      congrArg Host.Outcome.next (decodeEdge_sync_unsync hr hi hg₀)
    rw [runOps_cons, hsync, andThen_next, runOps_wholeFrame (s := s.syncAcquire) hr rfl hp hg]
    rfl

/-- Settles O29: the pulses stand in the first entries, FRAME-END writes `buf[8]` alone, and STATUS shows a ready frame at
its start. -/
theorem shortFrameKeepsStaleEntries : Obligations.ShortFrameKeepsStaleEntries := by
  intro s p g hr hi hlen hp hg
  refine ⟨_, runOps_frame hr hi (by omega) hp hg, rfl, statusWord_ready_start, Vector.getElem_set_self _, ?_, ?_⟩
  all_goals
    intro k hk
    rw [Vector.getElem_set_ne _ _ k.isLt.ne', getElem_withPulses]
  · rw [List.getElem?_eq_getElem hk, Option.getD_some]
  · rw [List.getElem?_eq_none hk, Option.getD_none]

/-! ### The sync gaps a report takes -/

/-- How many sync gaps the decoder has yet to see before it can report: none once it has reported, one to end the frame it
is in, and one more to acquire it (R83). -/
def gapsToReport (s : State) : Nat :=
  if s.ready then 0 else
    match s.idx with
    | .unsync => 2
    | .inFrame _ => 1

section
variable {s t : State}

theorem gapsToReport_ready (hr : s.ready = true) : gapsToReport s = 0 := by simp [gapsToReport, hr]

theorem gapsToReport_unsync (hr : s.ready = false) (hi : s.idx = .unsync) : gapsToReport s = 2 := by
  simp [gapsToReport, hr, hi]

theorem gapsToReport_inFrame {i : Fin 9} (hr : s.ready = false) (hi : s.idx = .inFrame i) : gapsToReport s = 1 := by
  simp [gapsToReport, hr, hi]

theorem gapsToReport_le_two (s : State) : gapsToReport s ≤ 2 := by
  unfold gapsToReport
  split
  · exact Nat.zero_le 2
  · split <;> decide

theorem SameFrame.gapsToReport_eq (h : SameFrame s t) : gapsToReport t = gapsToReport s := by
  simp only [gapsToReport, h.ready, h.idx]

/-! ### What one operation takes off that number -/

theorem isSyncEdge_edgeE_iff (e : Half) (s : State) :
    isSyncEdge s (.edgeE e) = true ↔ s.ready = false ∧ 2500 < e.toNat := by
  simp [isSyncEdge, isSyncGap_iff]

/-- EDGE is classified as the EDGE_E of the interval it measures (R77). -/
theorem HandsToDecoder.isSyncEdge_eq {i : Instr} {e : Half} (h : HandsToDecoder i s e) :
    isSyncEdge s i = isSyncEdge s (.edgeE e) := by
  obtain ⟨rfl, rfl⟩ | rfl := h <;> rfl

/-- `Decode(e)` takes one off at most, and only for a sync gap (R72, R73). -/
theorem gapsToReport_le_decodeEdge (e : Half) (s : State) :
    gapsToReport s ≤ (if isSyncEdge s (.edgeE e) then 1 else 0) + gapsToReport (s.decodeEdge e) := by
  obtain ⟨h, _⟩ | ⟨h, hr, hi, he⟩ | ⟨h, hr, ⟨i, hi⟩, he⟩ | ⟨i, h, hr, hi, _⟩ := decodeEdge_cases e s <;> rw [h]
  · exact Nat.le_add_left _ _
  · rw [if_pos ((isSyncEdge_edgeE_iff e s).2 ⟨hr, he⟩), gapsToReport_unsync hr hi,
      gapsToReport_inFrame (s := s.syncAcquire) hr rfl]
  · rw [if_pos ((isSyncEdge_edgeE_iff e s).2 ⟨hr, he⟩), gapsToReport_inFrame hr hi]
    exact Nat.le_add_right 1 _
  · rw [gapsToReport_inFrame hr hi, gapsToReport_inFrame (s := { s.writeBuf i.castSucc e with idx := .inFrame i.succ }) hr rfl]
    exact Nat.le_add_left 1 _

/-- No operation takes off more than the sync gap it is; RELEASE and RESET put the number back to 2. -/
theorem gapsToReport_le_exec {i : Instr} (h : exec i s = .next t) :
    gapsToReport s ≤ (if isSyncEdge s i then 1 else 0) + gapsToReport t := by
  obtain hsame | ⟨e, hdec, hsame⟩ | ⟨_, rfl⟩ | ⟨_, rfl⟩ := exec_frame_cases h
  · rw [hsame.gapsToReport_eq]
    exact Nat.le_add_left _ _
  · rw [hsame.gapsToReport_eq, hdec.isSyncEdge_eq]
    exact gapsToReport_le_decodeEdge e s
  · exact (gapsToReport_le_two s).trans (Nat.le_add_left 2 _)
  · exact (gapsToReport_le_two s).trans (Nat.le_add_left 2 _)

theorem syncEdges_cons {i : Instr} (h : exec i s = .next t) (ops : List Instr) :
    syncEdges (i :: ops) s = (if isSyncEdge s i then 1 else 0) + syncEdges ops t := by
  simp [syncEdges, h]

/-- A run takes off at most the sync gaps in it. -/
theorem gapsToReport_le_syncEdges {ops : List Instr} (h : runOps ops s = .next t) :
    gapsToReport s ≤ syncEdges ops s + gapsToReport t := by
  induction ops generalizing s with
  | nil => cases h; exact Nat.le_add_left _ _
  | cons i ops ih =>
    obtain ⟨u, hexec, hrun⟩ := andThen_eq_next h
    have hstep := gapsToReport_le_exec hexec
    have hrest := ih hrun
    rw [syncEdges_cons hexec]
    omega

end

/-- Settles O30: RELEASE leaves two sync gaps to see, and a report leaves none. -/
theorem reportAfterReleaseNeedsTwoSyncGaps : Obligations.ReportAfterReleaseNeedsTwoSyncGaps := by
  intro s t v ops hrun ht
  have hle : gapsToReport s.release ≤ syncEdges ops s.release + gapsToReport t := gapsToReport_le_syncEdges hrun
  rwa [gapsToReport_unsync (s := s.release) rfl rfl, gapsToReport_ready ht] at hle

end Sys2Proof.Machine
end

section
/-! PROOFS. The host interface (42_host_interface.md Part 1): the reads R84 to R88, the writes R89, R91 and R92, and
RELEASE (R90). -/

namespace Sys2Proof.Machine

/-! ### The words as the rules write them -/

/-- An RD word from its first four bits, its address and its zeros. -/
theorem rdWord_eq_bits (a : Addr) : 0b0100#4 ++ a ++ 0#16 = rdWord a := rfl

/-- A WR word from its first four bits, its address and its data. -/
theorem wrWord_eq_bits (a : Addr) (v : Half) : 0b1000#4 ++ a ++ v = wrWord a v := rfl

theorem decode_rdCh_bits : ∀ k : Fin 8, decode (0b01000#5 ++ BitVec.ofNat 3 k.val ++ 0#16) = .op (.rdCh k) := by
  decide

/-! ### The buffer (R84, R85) -/

theorem exec_rdCh (k : Fin 8) (s : State) : exec (.rdCh k) s = .next (s.driveRdata s.buf[k.val]) := rfl

theorem exec_rdGap (s : State) : exec .rdGap s = .next (s.driveRdata s.buf[8]) := rfl

/-- Settles O5: both reads drive `rdata` with a buffer entry; RESET clears the entries, and INV3 bounds the gap's. -/
theorem bufferReadsReturnTheEntry : Obligations.BufferReadsReturnTheEntry := by
  refine ⟨fun k => ⟨decode_rdCh_bits k, exec_rdCh k⟩, by decide, fun s => ⟨exec_rdGap s, fun k => ?ch, ?gap, ?inv⟩⟩
  case ch => exact ⟨_, rfl, readBuf_resetBlock s (entryOfChannel k)⟩
  case gap => exact ⟨_, rfl, readBuf_resetBlock s gapEntry⟩
  case inv => exact fun hgap => ⟨_, rfl, hgap.imp_left BitVec.eq_of_toNat_eq⟩

/-! ### STATUS (R86) -/

theorem statusWord_idxBits (idx : ChanIndex) (ready : Bool) : (statusWord idx ready).extractLsb' 8 8 = idxField idx := by
  rw [statusWord, BitVec.extractLsb'_append_eq_of_le (by decide)]
  exact BitVec.extractLsb'_append_eq_left

theorem statusWord_zeroBits (idx : ChanIndex) (ready : Bool) : (statusWord idx ready).extractLsb' 1 7 = 0#7 := by
  rw [statusWord, BitVec.extractLsb'_append_eq_of_le (by decide), BitVec.extractLsb'_append_eq_of_add_le (by decide)]
  exact BitVec.extractLsb'_eq_self

theorem idxField_inFrame_toNat : ∀ i : Fin 9, (idxField (.inFrame i)).toNat = i.val := by decide

theorem exec_rdStatus (s : State) : exec .rdStatus s = .next (s.driveRdata (statusWord s.idx s.ready)) := rfl

/-- Settles O6: the three fields of the STATUS word, and its two fixed values. -/
theorem statusReadReturnsIndexAndReady : Obligations.StatusReadReturnsIndexAndReady := by
  refine ⟨by decide, fun s => ⟨_, exec_rdStatus s, fun hi => ?unsync, fun i hi => ?inFrame,
    statusWord_zeroBits s.idx s.ready, statusWord_getLsbD_zero s.idx s.ready, fun hinv hr => ?ready, _, rfl, ?reset⟩⟩
  case unsync => rw [statusWord_idxBits, hi, idxField]
  case inFrame => rw [statusWord_idxBits, hi, idxField_inFrame_toNat]
  case ready => rw [hinv hr, hr, statusWord_ready_start]
  case reset => exact statusWord_unsync

/-! ### CTRL and the reserved addresses (R87, R88) -/

/-- Settles O7: the words by the decoder, and reads that drive `rdata` with 0. -/
theorem controlAndReservedReadsReturnZero : Obligations.ControlAndReservedReadsReturnZero := by
  refine ⟨by decide, by decide, fun a ha => ?word, fun s => ⟨rfl, rfl, fun a => rfl⟩⟩
  case word => rw [rdWord_eq_bits, decode_rdWord, decodeRd_cf ha]

/-! ### Writes without effect (R89, R91, R92) -/

theorem decode_wrCtrl (v : Half) :
    decode (0x8A#8 ++ v) = if v.getLsbD 0 then .op (.release v) else .op (.wrCtrlNop v) :=
  (decode_wrWord 0xA#4 v).trans (decodeWr_ctrl v)

/-- Settles O8: the words by the decoder's branch for their addresses; every such write answers the state it was given. -/
theorem writesWithoutEffectChangeNothing : Obligations.WritesWithoutEffectChangeNothing := by
  refine ⟨fun a v ha => ?low, fun a v ha => ?gs, fun v hv => ?ctrl, fun v => decode_wrWord 0xB#4 v,
    fun a v ha => ?cf, fun s a v => ⟨rfl, rfl, rfl, rfl, rfl⟩⟩
  case low => rw [wrWord_eq_bits, decode_wrWord, decodeWr_low ha]
  case gs => rw [wrWord_eq_bits, decode_wrWord, decodeWr_gs ha]
  case ctrl => rw [decode_wrCtrl, hv, if_neg Bool.false_ne_true]
  case cf => rw [wrWord_eq_bits, decode_wrWord, decodeWr_cf ha]

/-! ### RELEASE (R90) -/

theorem exec_release (v : Half) (s : State) : exec (.release v) s = .next s.release := rfl

theorem hostAccess_of_not_req {p : PortIn} (h : p.req = false) (s : State) : s.hostAccess p = s := by
  simp [State.hostAccess, h]

theorem hostAccess_release {p : PortIn} (hreq : p.req = true) (hwe : p.we = true) (ha : p.addr = 0xA#4)
    (hbit : p.wdata.getLsbD 0 = true) (s : State) : s.hostAccess p = s.release := by
  simp [State.hostAccess, hreq, hwe, ha, writeReg_ctrl, releaseBit, hbit]

/-- In a cycle the write of CTRL comes before the tick and the edge, as if RELEASE had been performed before the cycle
(R101). -/
theorem cycle_release {p : PortIn} (hrst : p.rst = false) (hreq : p.req = true) (hwe : p.we = true)
    (ha : p.addr = 0xA#4) (hbit : p.wdata.getLsbD 0 = true) (s : State) :
    cycle p s = cycle { p with req := false } s.release := by
  rw [cycle_of_not_rst hrst, cycle_of_not_rst (p := { p with req := false }) hrst, hostAccess_release hreq hwe ha hbit,
    hostAccess_of_not_req (p := { p with req := false }) rfl]
  rfl

/-- Settles O9: RELEASE writes two constants, so it is its own repetition, and no part of a cycle comes before it. -/
theorem releaseClearsReadyAndResynchronises : Obligations.ReleaseClearsReadyAndResynchronises := by
  refine fun v => ⟨fun hv => ?word, fun s => ⟨exec_release v s, rfl, fun p hrst hreq hwe ha hbit => ?cycle⟩⟩
  case word => rw [decode_wrCtrl, if_pos hv]
  case cycle => exact ⟨s.release, exec_release p.wdata s, cycle_release hrst hreq hwe ha hbit s⟩

end Sys2Proof.Machine
end

section
/-! PROOFS. The Reporter protocol (42_host_interface.md Part 2): the poll (R94), a whole report (R95, R96) and its total,
and the pause (R97). -/

namespace Sys2Proof.Machine

/-! ### The Reporter's stimuli -/

section
variable {s t : State} {rest : List Stimulus}

/-- A step with the Reporter's stimulus in front is its move, on the state in which a stimulus acts. -/
theorem step_reporter (h : s.inputs = .reporter :: rest) : step s = reporterMove (s.beginStep rest) := by
  simp only [step, h]

/-- A run of at least one step that begins with a move of the Reporter. -/
theorem run_reporter (k : Nat) (h : s.inputs = .reporter :: rest) (hmove : reporterMove (s.beginStep rest) = .next t) :
    Host.Core.run core (k + 1) s = Host.Core.run core k t :=
  run_succ k ((step_reporter h).trans hmove)

/-- Settles O50: the step is the move of a polling Reporter, and `STATUS[0]` is the Ready Flag. -/
theorem reporterPollsUntilReady : Obligations.ReporterPollsUntilReady := fun _ rest hin hphase =>
  (step_reporter hin).trans (reporterMove_polling (s := State.beginStep _ rest) hphase)

/-! ### From the poll to the pause -/

/-- A poll that finds `ready = 1` is the last one (R94, R95). -/
theorem reporterMove_polling_of_ready (hr : s.ready = true) (h : s.reporter.phase = .polling) :
    reporterMove s = .next
      { s with
        rdata := statusWord s.idx s.ready
        reporter := { s.reporter with phase := .draining [] } } := by
  rw [reporterMove_polling h, if_pos hr]

/-- The state in which the Reporter's protocol ends for the frame in `s`: the frame reported and released, the pause
begun. -/
def State.afterReport (s : State) (rest : List Stimulus) (report : List Half) : State :=
  { s.release.beginStep rest with
    reporter := ⟨.pausing Config.reporterPauseMs, s.reporter.reports ++ [report]⟩ }

/-- The gap completes what a draining Reporter has read to the whole buffer. -/
theorem ReporterInv.all_entries {got : List Half} (hs : ReporterInv s) (hphase : s.reporter.phase = .draining got)
    (hlen : got.length = 8) : got ++ [s.buf[8]] = s.buf.toList := by
  have hnext := hs.next_entry hphase (by omega)
  have htake : s.buf.toList.take 9 = s.buf.toList := List.take_of_length_le (by simp)
  simpa [hlen, htake] using hnext

/-- With `n` channels still to read, `n + 2` moves read them and the gap, and release the block (R95, R96). -/
theorem run_draining {n : Nat} {got : List Half} (hs : ReporterInv s) (hphase : s.reporter.phase = .draining got)
    (hlen : got.length + n = 8) (hin : s.inputs = List.replicate (n + 2) .reporter ++ rest) :
    Host.Core.run core (n + 2) s = .next (s.afterReport rest s.buf.toList) := by
  induction n generalizing s got with
  | zero =>
    have hgap := reporterMove_draining_gap (s := s.beginStep (.reporter :: rest)) hphase hlen
    rw [run_reporter 1 hin hgap, run_reporter 0 rfl (reporterMove_releasing rfl), run_zero,
      ← hs.all_entries hphase hlen]
    rfl
  | succ n ih =>
    have hchannel := reporterMove_draining_channel (s := s.beginStep (List.replicate (n + 2) .reporter ++ rest)) hphase
      (by omega)
    have hbegin : ReporterInv (s.beginStep (List.replicate (n + 2) .reporter ++ rest)) :=
      hs.of_sameFrame rfl fun _ => ⟨rfl, rfl, rfl⟩
    rw [run_reporter (n + 2) hin hchannel,
      ih (hbegin.reporterMove hchannel).1 rfl (by rw [List.length_append, List.length_singleton]; omega) rfl]
    rfl

end

/-- Settles O51: the poll sees `ready = 1`, and draining then takes ten moves, by induction on the channels to read. -/
theorem reporterDrainsThenReleases : Obligations.ReporterDrainsThenReleases := by
  intro s rest hr hphase
  have hpoll := reporterMove_polling_of_ready (s := s.beginStep (List.replicate 10 .reporter ++ rest)) hr hphase
  rw [run_reporter (s := { s with inputs := List.replicate 11 .reporter ++ rest }) 10 rfl hpoll]
  exact run_draining (n := 8) ((reporterInv_draining (got := []) rfl).2 ⟨hr, Nat.zero_le 8, rfl⟩) rfl rfl rfl

/-! ### The total (R95) -/

/-- The total of a buffer, entry by entry. -/
theorem reportTotal_toList {n : Nat} (v : Vector Half n) : reportTotal v.toList = ∑ k : Fin n, (v[k]).toNat := by
  conv_lhs => rw [← Vector.ofFn_getElem (xs := v)]
  rw [reportTotal, Vector.toList_ofFn, List.map_ofFn, List.sum_ofFn]
  rfl

/-- Every value is at most 65535, so the total is at most that much for each. -/
theorem reportTotal_le (vals : List Half) : reportTotal vals ≤ vals.length * 65535 := by
  have hmax : ∀ x ∈ vals.map BitVec.toNat, x ≤ 65535 := by
    intro x hx
    obtain ⟨v, _, rfl⟩ := List.mem_map.1 hx
    exact Nat.le_of_lt_succ v.isLt
  simpa [reportTotal] using List.sum_le_card_nsmul _ _ hmax

/-- Settles O54: the sum over the nine entries, and `9 * 65535 < 2^20`. -/
theorem reportTotalNeedsTwentyBits : Obligations.ReportTotalNeedsTwentyBits := by
  intro v
  refine ⟨?sum, ?bound⟩
  case sum =>
    rw [reportTotal_toList, Fin.sum_univ_castSucc, Fin.sum_univ_eight]
    rfl
  case bound =>
    calc reportTotal v.toList
        _ ≤ v.toList.length * 65535 := reportTotal_le v.toList
        _ = 9 * 65535 := by rw [Vector.length_toList]
        _ < 2 ^ 20 := by decide

/-! ### The pause (R97) -/

theorem elapse_pausing {r : Reporter} {left : Nat} (h : r.phase = .pausing left) (ms : Nat) :
    r.elapse ms = { r with phase := if left ≤ ms then .polling else .pausing (left - ms) } := by
  simp only [Reporter.elapse, h]
  split <;> rfl

/-- Settles O53: the pause adds a free value to 2000 ms; a pausing Reporter requests nothing, and time runs its pause
down. -/
theorem reporterPausesAtLeastTwoSeconds : Obligations.ReporterPausesAtLeastTwoSeconds := by
  refine ⟨Nat.le_add_right 2000 _, fun s left hphase => ⟨reporterMove_pausing hphase, fun ms => ?_⟩⟩
  rw [reporterWait, elapse_pausing hphase]

end Sys2Proof.Machine
end

section
/-! PROOFS. Outcomes and order (60_exceptions.md): nothing faults (R99), a report takes a sync gap (R100), the order of one
clock cycle (R101, R103), and what a host operation can see (R108). -/

namespace Sys2Proof.Machine

/-! ### Every operation completes (R99) -/

/-- Settles O10: each operation's arm of `exec` answers a next state. -/
theorem everyOperationCompletes : Obligations.EveryOperationCompletes := exec_completes

/-- So does any list of operations. -/
theorem runOps_completes (ops : List Instr) (s : State) : ∃ t, runOps ops s = .next t := by
  induction ops generalizing s with
  | nil => exact ⟨s, rfl⟩
  | cons i ops ih =>
    obtain ⟨u, hu⟩ := exec_completes i s
    rw [runOps_cons, hu, andThen_next]
    exact ih u

/-- Whatever the Reporter requests is an operation, so its move completes. -/
theorem reporterMove_completes (s : State) : ∃ t, reporterMove s = .next t := by
  cases hreq : s.reporter.request with
  | none => exact ⟨s, by simp only [reporterMove, hreq]⟩
  | some i =>
    obtain ⟨u, hu⟩ := exec_completes i s
    exact ⟨_, reporterMove_of_request hreq hu⟩

/-- A word that is refused names its refusal, and only a word that spells nothing is refused (R56). -/
theorem execWord_eq_refused_iff {w : OpWord} {s : State} {r : Refusal} :
    execWord w s = .refused r ↔ ∃ why, decode w = .refused why ∧ r = .refusedWord why := by
  cases hdec : decode w with
  | op i =>
    obtain ⟨t, ht⟩ := exec_completes i s
    simp [execWord_op hdec, ht]
  | refused why => simp [execWord_refused hdec, eq_comm]

/-- Settles O39: there is no fault to raise; a step with any other stimulus than a word, or with none, completes. -/
theorem stepIsRefusedOnlyOnWordsThatSpellNothing : Obligations.StepIsRefusedOnlyOnWordsThatSpellNothing := by
  refine fun s => ⟨nofun, fun r => ?_⟩
  match hin : s.inputs with
  | [] => simp [step, hin]
  | .word w :: rest => simp [step_word hin, execWord_eq_refused_iff]
  | .ports p :: rest => simp [step, hin]
  | .reporter :: rest =>
    obtain ⟨t, ht⟩ := reporterMove_completes (s.beginStep rest)
    simp [step_reporter hin, ht]
  | .elapse ms :: rest => simp [step, hin]

/-! ### No report without a sync gap (R100) -/

/-- A sync gap is left to see exactly while the block has no report. -/
theorem gapsToReport_pos_iff (s : State) : 0 < gapsToReport s ↔ s.ready = false := by
  cases hr : s.ready with
  | true => simp [gapsToReport_ready hr]
  | false => cases hi : s.idx <;> simp [gapsToReport_unsync, gapsToReport_inFrame, hr, hi]

/-- Settles O31: at `ready = 0` there is a sync gap left to see, and the run takes none off. -/
theorem noSyncGapNoReport : Obligations.NoSyncGapNoReport := by
  intro s ops hr hops
  obtain ⟨t, ht⟩ := runOps_completes ops s
  have hpos : 0 < gapsToReport s := (gapsToReport_pos_iff s).2 hr
  have hle : gapsToReport s ≤ syncEdges ops s + gapsToReport t := gapsToReport_le_syncEdges ht
  exact ⟨t, ht, (gapsToReport_pos_iff t).1 (by omega)⟩

/-! ### The order of one clock cycle (R101, R103) -/

theorem rise_iff (s : State) : s.rise = true ↔ s.s2 = true ∧ s.prev = false := by simp [State.rise]

/-- Without reset: the host access, the tick, the edge if there is a rise, and the sampler shifted from its values at the
start of the cycle. -/
theorem cycle_eq_of_not_rst {p : PortIn} (h : p.rst = false) (s : State) :
    cycle p s = { ((s.undriven.hostAccess p).tickStrobe p).edgeIfRise s.rise with
      prev := s.s2, s2 := s.s1, s1 := p.ppmIn } := by
  rw [cycle_of_not_rst h]
  simp [State.shiftSampler]

/-- Settles O44: the words before the edge are the host access and the tick, and EDGE comes after them on a rise. -/
theorem cycleTakesAnEdgeExactlyOnARise : Obligations.CycleTakesAnEdgeExactlyOnARise := by
  intro p s hrst
  refine ⟨(s.undriven.hostAccess p).tickStrobe p, ?words, fun hrise => ⟨_, rfl, ?edge⟩, fun hrise => ?noEdge⟩
  case words =>
    rw [runWords_append, runWords_hostWords, andThen_next, runWords_tickWords]
    rfl
  case edge =>
    rw [cycle_eq_of_not_rst hrst, (rise_iff s).2 hrise]
    rfl
  case noEdge =>
    rw [cycle_eq_of_not_rst hrst, Bool.eq_false_iff.2 (mt (rise_iff s).1 hrise)]
    rfl

theorem tickStrobe_eq (p : PortIn) (s : State) : s.tickStrobe p = { s with cnt := (s.tickStrobe p).cnt } := by
  unfold State.tickStrobe
  split <;> rfl

theorem tickStrobe_cnt_toNat (p : PortIn) (s : State) :
    (s.tickStrobe p).cnt.toNat = (s.cnt.toNat + if p.tickEn then 1 else 0) % 2 ^ 16 := by
  unfold State.tickStrobe
  split
  · simp
  · exact (Nat.mod_eq_of_lt s.cnt.isLt).symm

/-- At `ready = 0` and UNSYNC, `Decode(e)` at most acquires sync (R72, R74). -/
theorem decodeEdge_of_unsync {s : State} (hr : s.ready = false) (hi : s.idx = .unsync) (e : Half) :
    s.decodeEdge e = { s with idx := if 2500 < e.toNat then .inFrame 0 else .unsync } := by
  rcases Nat.lt_or_ge 2500 e.toNat with he | he
  · rw [decodeEdge_sync_unsync hr hi he, if_pos he]
    rfl
  · rw [decodeEdge_pulse_unsync hr hi he, if_neg (Nat.not_lt.2 he), ← hi]

/-- EDGE at `ready = 0` and UNSYNC, by the count of ticks. -/
theorem edge_of_unsync {s : State} (hr : s.ready = false) (hi : s.idx = .unsync) :
    s.edge = { s with cnt := 0#16, idx := if 2500 < s.cnt.toNat / 2 then .inFrame 0 else .unsync } := by
  rw [edge_eq_decodeEdge_setCnt, decodeEdge_of_unsync hr hi, usOfTicks_toNat]

/-- Settles O43: the edge finds what RELEASE left, with the tick of the cycle in the counter. -/
theorem sameCycleReleaseComesBeforeTheEdge : Obligations.SameCycleReleaseComesBeforeTheEdge := by
  intro p s hrst hreq hwe ha hbit hs2 hprev
  have hedge : (s.undriven.release.tickStrobe p).edge = { s.undriven.release with
      cnt := 0#16
      idx := if 2500 < (s.cnt.toNat + if p.tickEn then 1 else 0) % 2 ^ 16 / 2 then .inFrame 0 else .unsync } := by
    rw [tickStrobe_eq, edge_of_unsync rfl rfl, tickStrobe_cnt_toNat]
    rfl
  rw [cycle_eq_of_not_rst hrst, hostAccess_release hreq hwe ha hbit, (rise_iff s).2 ⟨hs2, hprev⟩, State.edgeIfRise,
    if_pos rfl, hedge, hs2]
  rfl

/-! ### What a host operation can see (R108) -/

/-- A register's value depends on the frame alone (R30). -/
theorem SameFrame.regValue_eq {s t : State} (h : SameFrame s t) (r : Reg) : t.regValue r = s.regValue r := by
  cases r <;> simp [State.regValue, h.readBuf_eq, h.ready, h.idx]

/-- Settles O18: a read is of the frame, which has no counter and no sampler in it; RELEASE writes two constants. -/
theorem hostOperationsNeitherChangeNorSeeTheTimer : Obligations.HostOperationsNeitherChangeNorSeeTheTimer := by
  intro i s hi
  obtain ⟨r, hread⟩ | ⟨d, rfl⟩ | hnone := exec_host_cases hi
  · refine ⟨_, hread s, rfl, rfl, id, fun c x y z => ?_⟩
    have hsame : SameFrame s { s with cnt := c, s1 := x, s2 := y, prev := z } := ⟨rfl, rfl, rfl⟩
    rw [hread, hsame.regValue_eq]
    rfl
  · exact ⟨s.release, rfl, rfl, rfl, nofun, fun _ _ _ _ => rfl⟩
  · exact ⟨s, hnone s, rfl, rfl, id, fun _ _ _ _ => hnone _⟩

end Sys2Proof.Machine
end

section
/-! PROOFS. Reset and hazards (70_reset_and_hazards.md): reset held over any number of cycles (R111), and the way of a
sample through the sampler to the detected edge (R103, R123). -/

namespace Sys2Proof.Machine

/-! ### Reset held -/

/-- Cycles under reset leave a block that is already reset as it is. -/
theorem runCycles_resetBlock {ps : List PortIn} (hps : ∀ p ∈ ps, p.rst = true) (s : State) :
    runCycles ps s.resetBlock = s.resetBlock := by
  induction ps with
  | nil => rfl
  | cons p ps ih =>
    obtain ⟨hrst, hps⟩ := List.forall_mem_cons.1 hps
    rw [runCycles, cycle_of_rst hrst]
    exact ih hps

/-- Settles O4: a reset cycle is RESET, whatever the other ports, and RESET of a reset block changes nothing. -/
theorem resetRestoresEveryElement : Obligations.ResetRestoresEveryElement := by
  refine ⟨decodeOfEncodeIsTheOperation .reset rfl, fun s => ⟨rfl, fun p hrst => ?_⟩⟩
  rw [cycle_of_rst hrst]
  exact ⟨rfl, fun ps hps => runCycles_resetBlock hps s⟩

/-! ### The way of a sample through the sampler -/

section
variable {p : PortIn} (h : p.rst = false) (s : State)
include h

theorem cycle_s1_of_not_rst : (cycle p s).s1 = p.ppmIn := by rw [cycle_eq_of_not_rst h]

theorem cycle_s2_of_not_rst : (cycle p s).s2 = s.s1 := by rw [cycle_eq_of_not_rst h]

theorem cycle_prev_of_not_rst : (cycle p s).prev = s.s2 := by rw [cycle_eq_of_not_rst h]

/-- A rise in the next cycle is a 1 in the first stage and a 0 in the second at the start of this one. -/
theorem rise_cycle_of_not_rst : (cycle p s).rise = (s.s1 && !s.s2) := by
  rw [State.rise, cycle_s2_of_not_rst h, cycle_prev_of_not_rst h]

end

/-- Settles O45: the third cycle leaves the rise to `s1` and `s2`, where the first two put their samples. -/
theorem edgeActsTwoCyclesAfterItsSample : Obligations.EdgeActsTwoCyclesAfterItsSample := by
  intro pa pb pc s ha hb hc
  calc (runCycles [pa, pb, pc] s).rise
      = ((cycle pb (cycle pa s)).s1 && !(cycle pb (cycle pa s)).s2) := rise_cycle_of_not_rst hc _
    _ = (pb.ppmIn && !(cycle pa s).s1) := by rw [cycle_s1_of_not_rst hb, cycle_s2_of_not_rst hb]
    _ = (pb.ppmIn && !pa.ppmIn) := by rw [cycle_s1_of_not_rst ha]

end Sys2Proof.Machine
end
